-- ==== Sys2Proof/Word.lean ====
section
/-! DEFINITION. The two word types of the block: a RAM byte and a register word (00_scope.md R8: "Every register: 32 bits. Every RAM word: 8 bits"). -/

namespace Sys2Proof

/-- One byte of a RAM. -/
abbrev Byte := BitVec 8

/-- One 32-bit register, command word or bus data word. -/
abbrev Word := BitVec 32

end Sys2Proof
end

