-- ==== Sys2Proof/Syntax.lean ====
section
/-! DEFINITION. The sixteen commands of spec/opcode_table.json, with the operands their words carry (30_encoding.md R71 to R73). -/

namespace Sys2Proof

/-- A bit-sequence buffer operand (30_encoding.md R71, fields BUF and SRC). -/
inductive Buf where
  | bsb0 | bsb1
  deriving DecidableEq, Repr

/-- A command, one constructor per row of spec/opcode_table.json (30_encoding.md R75). -/
inductive Instr where
  /-- NOP (40_control.md R91). -/
  | nop
  /-- SOFT_RESET (40_control.md R92). -/
  | softReset
  /-- BSB_CLEAR b (41_bitseq.md R102). -/
  | bsbClear (b : Buf)
  /-- BSB_APPEND_BIT b, f (41_bitseq.md R103). -/
  | bsbAppendBit (b : Buf) (f : Bool)
  /-- BSB_APPEND_NUM b, N (41_bitseq.md R104). -/
  | bsbAppendNum (b : Buf) (n : Nat)
  /-- BSB_APPEND_BYTES b (41_bitseq.md R105). -/
  | bsbAppendBytes (b : Buf)
  /-- BSB_APPEND_SEQ b, s: destination, then source (41_bitseq.md R106). -/
  | bsbAppendSeq (b src : Buf)
  /-- BSB_GET_BIT b (41_bitseq.md R107). -/
  | bsbGetBit (b : Buf)
  /-- BSB_PACK b (41_bitseq.md R108). -/
  | bsbPack (b : Buf)
  /-- SEG_SPLIT, with the case-fold flag f (42_segmenter.md R140). -/
  | segSplit (f : Bool)
  /-- RS_BLOCK (43_reed_solomon.md R165). -/
  | rsBlock
  /-- RS_INTERLEAVE (43_reed_solomon.md R167). -/
  | rsInterleave
  /-- FILL (44_placer.md R195). -/
  | fill
  /-- MASK_EVAL k (45_mask.md R228). -/
  | maskEval (k : Fin 8)
  /-- MASK_SELECT (45_mask.md R230). -/
  | maskSelect
  /-- MASK_FORCE k (45_mask.md R232). -/
  | maskForce (k : Fin 8)
  deriving DecidableEq, Repr

end Sys2Proof
end

