-- ==== Sys2Proof/WellFormed.lean ====
section
/-! DEFINITION. Which terms of `Instr` a command word can carry: the widths of the fields of 30_encoding.md R71 that the types do not already bound. -/

namespace Sys2Proof

/-- The field widths of 30_encoding.md R71. N has six bits; BUF, SRC, FLAG and K are bounded by their types. -/
def Instr.wellFormed : Instr → Bool
  | .nop => true
  | .softReset => true
  | .bsbClear _ => true
  | .bsbAppendBit _ _ => true
  | .bsbAppendNum _ n => n < 64
  | .bsbAppendBytes _ => true
  | .bsbAppendSeq _ _ => true
  | .bsbGetBit _ => true
  | .bsbPack _ => true
  | .segSplit _ => true
  | .rsBlock => true
  | .rsInterleave => true
  | .fill => true
  | .maskEval _ => true
  | .maskSelect => true
  | .maskForce _ => true

end Sys2Proof
end

