-- ==== Sys2Proof/Decode.lean ====
section
/-! DEFINITION. The decoder of 30_encoding.md R74 over the table of R75, total on every 32-bit word, and the encoder written from the same table. -/

namespace Sys2Proof

/-- BUF, bit 8 (30_encoding.md R72: `b = cmd[8]`). -/
def fieldBuf (c : Word) : Buf := if c.getLsbD 8 then .bsb1 else .bsb0

/-- SRC, bit 9 (30_encoding.md R72: `s = cmd[9]`). -/
def fieldSrc (c : Word) : Buf := if c.getLsbD 9 then .bsb1 else .bsb0

/-- K, bits 12:10 (30_encoding.md R72: `k = cmd[12:10]`). -/
def fieldK (c : Word) : Fin 8 := (c.extractLsb' 10 3).toFin

/-- FLAG, bit 13 (30_encoding.md R72: `f = cmd[13]`). -/
def fieldFlag (c : Word) : Bool := c.getLsbD 13

/-- N, bits 21:16 (30_encoding.md R72: `N = cmd[21:16]`). -/
def fieldN (c : Word) : Nat := (c.extractLsb' 16 6).toNat

/-- One row of the opcode map (30_encoding.md R75): a word is the row's when it equals `value` under `mask`; `build` takes the fields. -/
structure OpcodeRow where
  mnemonic : String
  value : Word
  mask : Word
  build : Word → Instr

/-- Whether a word is this row's: `(c AND row.mask) = row.match` (30_encoding.md R74). -/
def OpcodeRow.accepts (r : OpcodeRow) (c : Word) : Bool := c &&& r.mask == r.value

/-- The opcode map of 30_encoding.md R75, row by row. -/
def opcodeTable : List OpcodeRow :=
  [ ⟨"NOP",              0x00000000#32, 0xFFFFFFFF#32, fun _ => .nop⟩,
    ⟨"SOFT_RESET",       0x00000001#32, 0xFFFFFFFF#32, fun _ => .softReset⟩,
    ⟨"BSB_CLEAR",        0x00000010#32, 0xFFFFFEFF#32, fun c => .bsbClear (fieldBuf c)⟩,
    ⟨"BSB_APPEND_BIT",   0x00000011#32, 0xFFFFDEFF#32, fun c => .bsbAppendBit (fieldBuf c) (fieldFlag c)⟩,
    ⟨"BSB_APPEND_NUM",   0x00000012#32, 0xFFC0FEFF#32, fun c => .bsbAppendNum (fieldBuf c) (fieldN c)⟩,
    ⟨"BSB_APPEND_BYTES", 0x00000013#32, 0xFFFFFEFF#32, fun c => .bsbAppendBytes (fieldBuf c)⟩,
    ⟨"BSB_APPEND_SEQ",   0x00000014#32, 0xFFFFFCFF#32, fun c => .bsbAppendSeq (fieldBuf c) (fieldSrc c)⟩,
    ⟨"BSB_GET_BIT",      0x00000015#32, 0xFFFFFEFF#32, fun c => .bsbGetBit (fieldBuf c)⟩ ] ++
  [ ⟨"BSB_PACK",         0x00000016#32, 0xFFFFFEFF#32, fun c => .bsbPack (fieldBuf c)⟩,
    ⟨"SEG_SPLIT",        0x00000020#32, 0xFFFFDFFF#32, fun c => .segSplit (fieldFlag c)⟩,
    ⟨"RS_BLOCK",         0x00000030#32, 0xFFFFFFFF#32, fun _ => .rsBlock⟩,
    ⟨"RS_INTERLEAVE",    0x00000031#32, 0xFFFFFFFF#32, fun _ => .rsInterleave⟩,
    ⟨"FILL",             0x00000040#32, 0xFFFFFFFF#32, fun _ => .fill⟩,
    ⟨"MASK_EVAL",        0x00000050#32, 0xFFFFE3FF#32, fun c => .maskEval (fieldK c)⟩,
    ⟨"MASK_SELECT",      0x00000051#32, 0xFFFFFFFF#32, fun _ => .maskSelect⟩,
    ⟨"MASK_FORCE",       0x00000052#32, 0xFFFFE3FF#32, fun c => .maskForce (fieldK c)⟩ ]

/-- The two ways a word can be an IllegalCommand (30_encoding.md R77). -/
inductive IllegalEncoding where
  /-- "its OPC is not in the table of rule R75". -/
  | unassignedOpcode
  /-- "its OPC is in the table but a bit outside the row's used fields is 1". -/
  | unusedBitSet
  deriving DecidableEq, Repr

/-- Whether bits 7:0 of a word are an opcode of the table (30_encoding.md R75). -/
def opcodeAssigned (c : Word) : Bool :=
  opcodeTable.any fun r => c.extractLsb' 0 8 == r.value.extractLsb' 0 8

/-- `decode` of 30_encoding.md R74: the unique row that accepts the word, or a named IllegalCommand. -/
def decode (c : Word) : Except IllegalEncoding Instr :=
  match opcodeTable.find? (fun r => r.accepts c) with
  | some r => .ok (r.build c)
  | none => .error (if opcodeAssigned c then .unusedBitSet else .unassignedOpcode)

/-- A one-bit field at bit `i`. -/
def placeBit (i : Nat) (v : Bool) : Word := if v then 1#32 <<< i else 0#32

/-- The BUF field of a word. -/
def placeBuf (b : Buf) : Word := placeBit 8 (b == .bsb1)

/-- The SRC field of a word. -/
def placeSrc (b : Buf) : Word := placeBit 9 (b == .bsb1)

/-- The K field of a word. -/
def placeK (k : Fin 8) : Word := BitVec.ofNat 32 k.val <<< 10

/-- The N field of a word. -/
def placeN (n : Nat) : Word := BitVec.ofNat 32 n <<< 16

/-- The word of a command (the `encoding` patterns of spec/opcode_table.json). -/
def encode : Instr → Word
  | .nop => 0x00#32
  | .softReset => 0x01#32
  | .bsbClear b => 0x10#32 ||| placeBuf b
  | .bsbAppendBit b f => 0x11#32 ||| placeBuf b ||| placeBit 13 f
  | .bsbAppendNum b n => 0x12#32 ||| placeBuf b ||| placeN n
  | .bsbAppendBytes b => 0x13#32 ||| placeBuf b
  | .bsbAppendSeq b src => 0x14#32 ||| placeBuf b ||| placeSrc src
  | .bsbGetBit b => 0x15#32 ||| placeBuf b
  | .bsbPack b => 0x16#32 ||| placeBuf b
  | .segSplit f => 0x20#32 ||| placeBit 13 f
  | .rsBlock => 0x30#32
  | .rsInterleave => 0x31#32
  | .fill => 0x40#32
  | .maskEval k => 0x50#32 ||| placeK k
  | .maskSelect => 0x51#32
  | .maskForce k => 0x52#32 ||| placeK k

/-- The host's reading of a table word: the instruction whose low `nbits` bits are `w`, every bit above them 0. Every command is
one 32-bit word (30_encoding.md R70), so nothing longer is an instruction. -/
def decodeTableWord (nbits w : Nat) : Option Instr :=
  if nbits ≤ 32 then (decode (BitVec.ofNat 32 (w % 2 ^ nbits))).toOption else none

end Sys2Proof
end

