-- ==== Sys2Proof/Config.lean ====
section
/-! DEFINITION. What an implementation fixes (the five parameters of 00_scope.md R8) and the free values the spec leaves open (10_state.md R45). -/

namespace Sys2Proof

/-- The four byte RAMs (10_state.md R33 to R36). -/
inductive Ram where
  | data | frame | cand | sym
  deriving DecidableEq, Repr

/-- `N4_ROUNDING`: how the dark percentage is rounded (00_scope.md R8, 45_mask.md R222). -/
inductive N4Rounding where
  | round | truncate
  deriving DecidableEq, Repr

/-- `AN_RESUME_LI`: which length-indicator width absorb-alphanumeric charges for resuming (00_scope.md R8, 42_segmenter.md R134). -/
inductive AnResumeLi where
  | ln | la
  deriving DecidableEq, Repr

/-- The implementation parameters of 00_scope.md R8. The spec leaves them open, so State carries them and every
statement about the machine ranges over all of them (log entry 1). -/
structure Params where
  bsbCapBits : Nat
  dataRamBytes : Nat
  nsegMax : Nat
  n4Rounding : N4Rounding
  anResumeLi : AnResumeLi
  deriving DecidableEq, Repr

/-- The legal ranges of 00_scope.md R8. -/
abbrev Params.legal (p : Params) : Prop :=
  (23648 ≤ p.bsbCapBits ∧ p.bsbCapBits ≤ 2 ^ 20) ∧
  (4096 ≤ p.dataRamBytes ∧ p.dataRamBytes ≤ 65536) ∧
  (1 ≤ p.nsegMax ∧ p.nsegMax ≤ 1024)

namespace Config

/-- The default column of 00_scope.md R8. DESIGN CHOICE (log entry 1): `State.reset` is the implementation with these. -/
def defaultParams : Params where
  bsbCapBits := 32768
  dataRamBytes := 16384
  nsegMax := 1024
  n4Rounding := .round
  anResumeLi := .ln

/-- FREE VALUE (log entry 2): the byte that reset number `draw` left at offset `a` of RAM `r`. 10_state.md R45: "The model
draws it once at reset, as a free input under no law". -/
opaque drawnByte : (draw : Nat) → (r : Ram) → (a : Nat) → Byte

/-- FREE VALUE (log entry 3): the MODE field of segment-table entry `j` after reset number `draw`. -/
opaque drawnMode : (draw : Nat) → (j : Nat) → BitVec 2

/-- FREE VALUE (log entry 3): the START field of segment-table entry `j` after reset number `draw`. -/
opaque drawnStart : (draw : Nat) → (j : Nat) → BitVec 16

/-- FREE VALUE (log entry 3): the LENGTH field of segment-table entry `j` after reset number `draw`. -/
opaque drawnLength : (draw : Nat) → (j : Nat) → BitVec 16

end Config

end Sys2Proof
end

