-- ==== Sys2Proof/Machine/State.lean ====
section
/-! DEFINITION. The state of the block as plain data: the architectural state of 10_state.md R20, the reset pin and the host port of 20_memory.md R50, and one counter of the model's own (log entry 2). -/

namespace Sys2Proof.Machine

/-- The command errors of 60_exceptions.md R252. -/
inductive CmdError where
  /-- Code 1: an operand value out of its legal range. -/
  | invalidInput
  /-- Code 2: reserved; no command raises it. -/
  | capacityExceeded
  /-- Code 3: reserved; no command raises it. -/
  | tooManySymbols
  /-- Code 4: a buffer would pass BSB_CAP_BITS, or the segment list NSEG_MAX. -/
  | allocationFailure
  /-- Code 5: the placer ran out of grid positions. -/
  | frameOverflow
  /-- Code 6: a bit index at or past the buffer's size. -/
  | invalidIndex
  /-- Code 7: an unassigned opcode or a non-zero unused bit. -/
  | illegalCommand
  /-- Code 8: a DATA_RAM range past DATA_RAM_BYTES. -/
  | badAddress
  deriving DecidableEq, Repr

/-- Why the machine stops: never. 93_implementation_defined.md: "No item of this block is `stuck`. Every command completes". A
command error is an architectural outcome (60_exceptions.md R254) and a bus error sets a status bit (R257); both are next
states, so no constructor is raised by anyone (log entry 13). Safe. -/
inductive Fault where
  deriving DecidableEq, Repr

/-- Why a command has no meaning in this model. -/
inductive Refusal where
  /-- Raised by `exec` for a command this model gives no meaning; no arm of this model does. Safe: the machine stops. -/
  | notModelled (mnemonic : String)
  deriving DecidableEq, Repr

/-- The stored fields of STATUS (10_state.md R24). BUSY is not stored: it is the pending latch (R40, log entry 8). -/
structure Status where
  done : Bool
  err : Bool
  errCode : BitVec 8
  busErr : Bool
  anyErr : Bool
  deriving DecidableEq, Repr

/-- The result registers RES0 to RES7 (10_state.md R32). -/
structure Results where
  res0 : Word
  res1 : Word
  res2 : Word
  res3 : Word
  res4 : Word
  res5 : Word
  res6 : Word
  res7 : Word
  deriving DecidableEq, Repr

/-- One segment-table entry (10_state.md R39): MODE 0 Numeric, 1 Alphanumeric, 2 Byte. -/
structure SegEntry where
  mode : BitVec 2
  start : BitVec 16
  length : BitVec 16
  deriving DecidableEq, Repr

/-- The bytes of one RAM written since reset, by rising offset; an offset that is not listed has no value here and reads as the
byte drawn at reset (`State.ramByte`, log entry 2). -/
abbrev Memory := List Host.Cell

/-- The transfer sizes of 20_memory.md R50: 1, 2 and 4 bytes. -/
inductive BusSize where
  | byte | half | word
  deriving DecidableEq, Repr

/-- What the outside can do to the block (20_memory.md R50, 70_reset_and_hazards.md R280). -/
inductive HostAction where
  | read (addr : BitVec 18) (size : BusSize)
  | write (addr : BitVec 18) (size : BusSize) (wdata : Word)
  | assertReset
  | releaseReset
  deriving DecidableEq, Repr

/-- One queued action of the outside. `early` is the outside's choice of time: should a command be pending, the action comes
before the command completes, if it is one that may (10_state.md R25, R40; log entry 4). -/
structure HostEvent where
  action : HostAction
  early : Bool
  deriving DecidableEq, Repr

/-- What the port returned for the last transaction (20_memory.md R50). -/
inductive BusResponse where
  | readReply (rdata : Word) (err : Bool)
  | writeReply (err : Bool)
  deriving DecidableEq, Repr

/-- The state of the block. -/
structure State where
  /-- The implementation's constants, read back from PARAM0 to PARAM3 (00_scope.md R8, 10_state.md R31). -/
  params : Params
  /-- VERSION, bits 5:0 (10_state.md R28). -/
  version : BitVec 6
  /-- LEVEL, bits 1:0 (10_state.md R29). -/
  level : BitVec 2
  /-- ARG0 (10_state.md R30). -/
  arg0 : Word
  /-- ARG1 (10_state.md R30). -/
  arg1 : Word
  /-- ARG2 (10_state.md R30). -/
  arg2 : Word
  /-- ARG3 (10_state.md R30). -/
  arg3 : Word
  /-- RES0 to RES7 (10_state.md R32). -/
  res : Results
  /-- STATUS, less BUSY (10_state.md R24). -/
  status : Status
  /-- The pending-command latch; STATUS.BUSY says whether it is full (10_state.md R40). -/
  pending : Option Word
  /-- BSB0, first bit appended first (10_state.md R38). -/
  bsb0 : List Bool
  /-- BSB1 (10_state.md R38). -/
  bsb1 : List Bool
  /-- The segment-table entries written since reset, entry 0 first; later entries read as drawn at reset (10_state.md R39, R45). -/
  segs : List SegEntry
  /-- SEG_COUNT (10_state.md R39). -/
  segCount : Word
  /-- DATA_RAM (10_state.md R36). -/
  dataRam : Memory
  /-- FRAME_RAM (10_state.md R33). -/
  frameRam : Memory
  /-- CAND_RAM (10_state.md R34). -/
  candRam : Memory
  /-- SYM_RAM (10_state.md R35). -/
  symRam : Memory
  /-- The model's own: how many hardware resets there have been, which selects the free draw (log entry 2). -/
  draws : Nat
  /-- The input rst_n is held low (70_reset_and_hazards.md R280). -/
  rstLow : Bool
  /-- The model's own: what the outside does next, oldest first (20_memory.md R63, log entry 4). -/
  hostQueue : List HostEvent
  /-- The model's own: the port's answer to the last transaction (20_memory.md R50, log entry 6). -/
  response : Option BusResponse
  deriving DecidableEq, Repr

/-- The reset state of 70_reset_and_hazards.md R281 and 10_state.md R43, for an implementation, a draw and what the outside does next. -/
def State.resetWith (p : Params) (draw : Nat) (queue : List HostEvent) : State where
  params := p
  version := 0#6
  level := 0#2
  arg0 := 0#32
  arg1 := 0#32
  arg2 := 0#32
  arg3 := 0#32
  res := ⟨0#32, 0#32, 0#32, 0#32, 0#32, 0#32, 0#32, 0#32⟩
  status := ⟨false, false, 0#8, false, false⟩
  pending := none
  bsb0 := []
  bsb1 := []
  segs := []
  segCount := 0#32
  dataRam := []
  frameRam := []
  candRam := []
  symRam := []
  draws := draw
  rstLow := false
  hostQueue := queue
  response := none

/-- The machine right after hardware reset, with the spec's default parameters (log entry 1) and nothing yet asked of it (log entry 7). -/
def State.reset : State := State.resetWith Config.defaultParams 0 []

end Sys2Proof.Machine
end

