-- ==== Sys2Proof/Machine/Flags.lean ====
section
/-! DEFINITION. Every computation of a STATUS field (10_state.md R24 to R27, 20_memory.md R55): issue, completion, bus error, the sticky bits' write-one-to-clear, and the word a read returns. STATUS holds the block's only flags (R41). -/

namespace Sys2Proof.Machine

/-- The code of an error (60_exceptions.md R252). -/
def CmdError.code : CmdError → BitVec 8
  | .invalidInput => 1#8
  | .capacityExceeded => 2#8
  | .tooManySymbols => 3#8
  | .allocationFailure => 4#8
  | .frameOverflow => 5#8
  | .invalidIndex => 6#8
  | .illegalCommand => 7#8
  | .badAddress => 8#8

/-- The flags at issue (10_state.md R25): DONE, ERR and ERRCODE cleared, the sticky bits kept. -/
def Status.issued (f : Status) : Status :=
  { f with done := false, err := false, errCode := 0#8 }

/-- The flags when a command completes with outcome ok (10_state.md R26). -/
def Status.completedOk (f : Status) : Status :=
  { f with done := true, err := false, errCode := 0#8 }

/-- The flags when a command completes with error `e` (10_state.md R26). -/
def Status.completedError (f : Status) (e : CmdError) : Status :=
  { f with done := true, err := true, errCode := e.code, anyErr := true }

/-- The flags after a bus error (20_memory.md R55). -/
def Status.busErrored (f : Status) : Status :=
  { f with busErr := true }

/-- The flags after a write of `v` to STATUS (10_state.md R27): bit 16 clears BUSERR, bit 17 clears ANYERR. -/
def Status.written (f : Status) (v : Word) : Status :=
  { f with busErr := f.busErr && !v.getLsbD 16, anyErr := f.anyErr && !v.getLsbD 17 }

/-- The flags SOFT_RESET leaves before it completes (40_control.md R92): both sticky bits cleared. -/
def Status.stickyCleared (f : Status) : Status :=
  { f with busErr := false, anyErr := false }

/-- The word a read of STATUS returns (10_state.md R24), given BUSY. -/
def Status.word (f : Status) (busy : Bool) : Word :=
  0#14 ++ BitVec.ofBool f.anyErr ++ BitVec.ofBool f.busErr ++ f.errCode ++ 0#5 ++
    BitVec.ofBool f.err ++ BitVec.ofBool f.done ++ BitVec.ofBool busy

/-- STATUS.BUSY: a command is pending (10_state.md R40). -/
def State.busy (s : State) : Bool := s.pending.isSome

/-- STATUS as a read returns it (10_state.md R24). -/
def State.statusWord (s : State) : Word := s.status.word s.busy

end Sys2Proof.Machine
end

