-- ==== Sys2Proof/Machine/Ops.lean ====
section
/-! DEFINITION. The named operations over RAMs, buffers and the segment table, and how a command ends: completion (10_state.md R26) and `raise E` (60_exceptions.md R254). -/

namespace Sys2Proof.Machine

/-! ### Memory -/

/-- The one form of a memory: offsets strictly rising and below the RAM's size. An unlisted offset has no value of its own, so no
entry repeats one. -/
abbrev Memory.wf (m : Memory) (size : Nat) : Prop :=
  m.Pairwise (fun c d => c.1 < d.1) ∧ ∀ c ∈ m, c.1 < size

/-- The byte written at an offset since reset, if any. -/
def Memory.find (m : Memory) (a : Nat) : Option Byte := List.lookup a m

/-- The entries of a byte run that starts at offset `a`. -/
def Memory.run (a : Nat) : List Byte → Memory
  | [] => []
  | v :: vs => (a, v) :: Memory.run (a + 1) vs

/-- `MemWrite(a, n, list)` on one RAM (00_scope.md R11). -/
def Memory.writeRange (m : Memory) (a : Nat) (vs : List Byte) : Memory :=
  m.filter (fun c => decide (c.1 < a)) ++ Memory.run a vs ++ m.filter (fun c => decide (a + vs.length ≤ c.1))

/-- A write of one byte. -/
def Memory.write (m : Memory) (a : Nat) (v : Byte) : Memory := m.writeRange a [v]

/-- One RAM of the state. -/
def State.ram (s : State) : Ram → Memory
  | .data => s.dataRam
  | .frame => s.frameRam
  | .cand => s.candRam
  | .sym => s.symRam

/-- Replace one RAM of the state. -/
def State.setRam (s : State) (r : Ram) (m : Memory) : State :=
  match r with
  | .data => { s with dataRam := m }
  | .frame => { s with frameRam := m }
  | .cand => { s with candRam := m }
  | .sym => { s with symRam := m }

/-- The size of a RAM in bytes (00_scope.md R8, 10_state.md R33 to R36). -/
def ramBytes (p : Params) : Ram → Nat
  | .data => p.dataRamBytes
  | .frame => 32768
  | .cand => 32768
  | .sym => 32768

/-- One byte of a RAM: what was written last, else the byte drawn at reset (10_state.md R45, log entry 2). -/
def State.ramByte (s : State) (r : Ram) (a : Nat) : Byte :=
  ((s.ram r).find a).getD (Config.drawnByte s.draws r a)

/-- `MemRead(a, n)` (00_scope.md R11). -/
def State.readRam (s : State) (r : Ram) (a n : Nat) : List Byte :=
  (List.range n).map fun i => s.ramByte r (a + i)

/-- `MemWrite(a, n, list)` (00_scope.md R11). -/
def State.writeRam (s : State) (r : Ram) (a : Nat) (vs : List Byte) : State :=
  s.setRam r ((s.ram r).writeRange a vs)

/-- Single-byte writes, in order. -/
def Memory.writeEach (m : Memory) : List (Nat × Byte) → Memory
  | [] => m
  | (a, v) :: rest => (m.write a v).writeEach rest

/-- Single-byte writes to one RAM, in order. -/
def State.writeRamEach (s : State) (r : Ram) (cells : List (Nat × Byte)) : State :=
  s.setRam r ((s.ram r).writeEach cells)

/-! ### Buffers -/

/-- A bit-sequence buffer (41_bitseq.md R100). -/
def State.bsb (s : State) : Buf → List Bool
  | .bsb0 => s.bsb0
  | .bsb1 => s.bsb1

/-- Replace a bit-sequence buffer. -/
def State.setBsb (s : State) (b : Buf) (bits : List Bool) : State :=
  match b with
  | .bsb0 => { s with bsb0 := bits }
  | .bsb1 => { s with bsb1 := bits }

/-- The bits of a byte, most significant first (20_memory.md R57). -/
def byteBits (v : Byte) : List Bool :=
  [v.getLsbD 7, v.getLsbD 6, v.getLsbD 5, v.getLsbD 4, v.getLsbD 3, v.getLsbD 2, v.getLsbD 1, v.getLsbD 0]

/-- The low `n` bits of a word, most significant first (41_bitseq.md R104: `[v[N-1], v[N-2], ..., v[0]]`). -/
def lowBits (n : Nat) (v : Word) : List Bool :=
  (List.range n).map fun j => v.getLsbD (n - 1 - j)

/-- Byte `j` of a packed sequence: `Σ_{t=0..7} bitat(8j + t) · 2^(7-t)`, a bit past the end being 0 (41_bitseq.md R108). -/
def packedByte (bits : List Bool) (j : Nat) : Byte :=
  BitVec.ofNat 8 (((List.range 8).map fun t => (bits.getD (8 * j + t) false).toNat * 2 ^ (7 - t)).sum)

/-- A bit sequence as bytes, the last one zero-padded (41_bitseq.md R108). -/
def packBits (bits : List Bool) : List Byte :=
  (List.range ((bits.length + 7) / 8)).map (packedByte bits)

/-! ### Segment table -/

/-- Entry `j` of the segment table: what was written last, else the entry drawn at reset (10_state.md R39, R45, log entry 3). -/
def State.segEntry (s : State) (j : Nat) : SegEntry :=
  (s.segs[j]?).getD ⟨Config.drawnMode s.draws j, Config.drawnStart s.draws j, Config.drawnLength s.draws j⟩

/-- `SEG[j] <- out[j] for j < len(out)`, `SEG_COUNT <- len(out)` (42_segmenter.md R140); entries past the list keep their contents. -/
def State.writeSegs (s : State) (out : List SegEntry) : State :=
  { s with segs := out ++ s.segs.drop out.length, segCount := BitVec.ofNat 32 out.length }

/-! ### Results -/

/-- Write RES0 alone. -/
def State.setRes0 (s : State) (v : Nat) : State :=
  { s with res := { s.res with res0 := BitVec.ofNat 32 v } }

/-- Write RES0 to RES2 (43_reed_solomon.md R167). -/
def State.setRes012 (s : State) (v0 v1 v2 : Nat) : State :=
  { s with res := { s.res with res0 := BitVec.ofNat 32 v0, res1 := BitVec.ofNat 32 v1, res2 := BitVec.ofNat 32 v2 } }

/-- Write RES0 to RES6, keeping RES7 (45_mask.md R228, R230, R232). -/
def State.setRes0to6 (s : State) (v0 v1 v2 v3 v4 v5 v6 : Nat) : State :=
  { s with res := ⟨BitVec.ofNat 32 v0, BitVec.ofNat 32 v1, BitVec.ofNat 32 v2, BitVec.ofNat 32 v3,
      BitVec.ofNat 32 v4, BitVec.ofNat 32 v5, BitVec.ofNat 32 v6, s.res.res7⟩ }

/-! ### How a command ends -/

/-- Completion with outcome ok (10_state.md R26). -/
def State.completeOk (s : State) : State :=
  { s with pending := none, status := s.status.completedOk }

/-- `raise E` (60_exceptions.md R254), the block's only exception entry: completion with the error, and no other write. There is no
handler, saved state or return (R261, R262): the block is idle and takes the next command. -/
def State.raiseError (s : State) (e : CmdError) : State :=
  { s with pending := none, status := s.status.completedError e }

/-- The end of the execution frame (40_control.md R90): the body's writes and completion in one step, or the error alone. `s` is the
snapshot the body read. -/
def finish (s : State) : Except CmdError State → Host.Outcome State Fault Refusal
  | .ok t => .next t.completeOk
  | .error e => .next (s.raiseError e)

end Sys2Proof.Machine
end

