-- ==== Sys2Proof/Machine/Operands.lean ====
section
/-! DEFINITION. Every operand form of 30_encoding.md R72 and R73 that is not a field of the command word: DATA_RAM ranges, the grid version and width, and the packed block geometry. -/

namespace Sys2Proof.Machine

/-- Whether the DATA_RAM range of `n` bytes at offset `a` is legal, computed without wrap-around (20_memory.md R61). -/
def State.dataRangeOk (s : State) (a n : Nat) : Bool := decide (a + n ≤ s.params.dataRamBytes)

/-- The symbol width of a version (00_scope.md R9). -/
def symbolWidth (v : Nat) : Nat := 17 + 4 * v

/-- The grid width when a command starts (20_memory.md R58). -/
def State.gridWidth (s : State) : Nat := symbolWidth s.version.toNat

/-- Whether VERSION is one the placer and the mask engine accept (10_state.md R28). -/
def State.gridVersionOk (s : State) : Bool := decide (1 ≤ s.version.toNat) && decide (s.version.toNat ≤ 40)

/-- A block geometry (43_reed_solomon.md R166). -/
structure Geometry where
  b1 : Nat
  d1 : Nat
  b2 : Nat
  d2 : Nat
  e : Nat
  deriving DecidableEq, Repr

/-- The geometry operands of RS_INTERLEAVE: four bytes of ARG1, and ARG3 (30_encoding.md R72, 43_reed_solomon.md R167). -/
def State.geometry (s : State) : Geometry where
  b1 := (s.arg1.extractLsb' 0 8).toNat
  d1 := (s.arg1.extractLsb' 8 8).toNat
  b2 := (s.arg1.extractLsb' 16 8).toNat
  d2 := (s.arg1.extractLsb' 24 8).toNat
  e := s.arg3.toNat

/-- The legal geometries (43_reed_solomon.md R166). -/
def Geometry.legal (g : Geometry) : Bool :=
  decide (1 ≤ g.b1) && decide (1 ≤ g.d1) && decide (1 ≤ g.e) &&
  (if g.b2 = 0 then decide (g.d2 = 0) else decide (g.d2 = g.d1 + 1) && decide (g.d2 + g.e ≤ 255)) &&
  decide (g.d1 + g.e ≤ 255)

/-- B, the block count. -/
def Geometry.blocks (g : Geometry) : Nat := g.b1 + g.b2

/-- D, the data length. -/
def Geometry.dataLen (g : Geometry) : Nat := g.b1 * g.d1 + g.b2 * g.d2

/-- E, the parity length. -/
def Geometry.parityLen (g : Geometry) : Nat := g.blocks * g.e

end Sys2Proof.Machine
end

