-- ==== Sys2Proof/Machine/Bus.lean ====
section
/-! DEFINITION. The host port (20_memory.md R50 to R60): the address map, register reads and writes, RAM and table accesses, bus errors, issue (10_state.md R25), reset (70_reset_and_hazards.md R280), and which queued action comes next (10_state.md R25, R40). -/

namespace Sys2Proof.Machine

/-! ### Address map -/

/-- The ranges of 20_memory.md R51. -/
inductive Region where
  | registers
  | segmentTable
  | ram (r : Ram)
  | unmapped
  deriving DecidableEq, Repr

/-- The range an address is in (20_memory.md R51). -/
def regionOf (a : Nat) : Region :=
  if a < 0x01000 then .registers
  else if a < 0x03000 then .segmentTable
  else if a < 0x10000 then .unmapped
  else if a < 0x20000 then .ram .data
  else if a < 0x28000 then .ram .frame
  else if a < 0x30000 then .ram .cand
  else if a < 0x38000 then .ram .sym
  else .unmapped

/-- The bus address of byte 0 of a RAM (20_memory.md R51). -/
def ramBase : Ram → Nat
  | .data => 0x10000
  | .frame => 0x20000
  | .cand => 0x28000
  | .sym => 0x30000

/-- The bytes of a transfer. -/
def BusSize.bytes : BusSize → Nat
  | .byte => 1
  | .half => 2
  | .word => 4

/-- Whether a transaction is legal: registers only as aligned words (20_memory.md R52), every other range naturally aligned (R53, R54). -/
def legalAccess (a : Nat) (size : BusSize) : Bool :=
  match regionOf a with
  | .registers => size == .word && a % 4 == 0
  | .segmentTable => a % size.bytes == 0
  | .ram _ => a % size.bytes == 0
  | .unmapped => a % size.bytes == 0

/-! ### Reads -/

/-- The constant of the ID register (10_state.md R22). -/
def idWord : Word := 0x51524301#32

/-- PARAM3 (10_state.md R31): bit 0 N4_ROUNDING, bit 1 AN_RESUME_LI. -/
def paramWord3 (p : Params) : Word :=
  (match p.n4Rounding with | .round => 0#32 | .truncate => 1#32) |||
  (match p.anResumeLi with | .ln => 0#32 | .la => 2#32)

/-- The word at an offset of the register window (10_state.md R22 to R32, R38, R39); CMD and reserved offsets read 0 (R23, 20_memory.md R52). -/
def State.readRegister (s : State) (off : Nat) : Word :=
  match off with
  | 0x000 => idWord
  | 0x008 => s.statusWord
  | 0x00C => s.version.setWidth 32
  | 0x010 => s.level.setWidth 32
  | 0x014 => s.arg0
  | 0x018 => s.arg1
  | 0x01C => s.arg2
  | 0x020 => s.arg3
  | 0x024 => s.res.res0
  | 0x028 => s.res.res1
  | 0x02C => s.res.res2
  | 0x030 => s.res.res3
  | 0x034 => s.res.res4
  | 0x038 => s.res.res5
  | 0x03C => s.res.res6
  | 0x040 => s.res.res7
  | 0x044 => BitVec.ofNat 32 s.bsb0.length
  | 0x048 => BitVec.ofNat 32 s.bsb1.length
  | 0x04C => s.segCount
  | 0x050 => BitVec.ofNat 32 s.params.bsbCapBits
  | 0x054 => BitVec.ofNat 32 s.params.dataRamBytes
  | 0x058 => BitVec.ofNat 32 s.params.nsegMax
  | 0x05C => paramWord3 s.params
  | _ => 0#32

/-- The two words of a table entry (10_state.md R39): START, then MODE and LENGTH. -/
def SegEntry.word0 (e : SegEntry) : Word := e.start.setWidth 32

/-- Word 1 of a table entry: `{14'b0, MODE[1:0], LENGTH[15:0]}` (10_state.md R39). -/
def SegEntry.word1 (e : SegEntry) : Word := 0#14 ++ e.mode ++ e.length

/-- Byte `i` of a word, the least significant first (20_memory.md R56). -/
def wordByte (w : Word) (i : Nat) : Byte := w.extractLsb' (8 * i) 8

/-- The byte at offset `o` of the segment-table window (10_state.md R39, 20_memory.md R53). -/
def State.tableByte (s : State) (o : Nat) : Byte :=
  let e := s.segEntry (o / 8)
  if o % 8 < 4 then wordByte e.word0 (o % 8) else wordByte e.word1 (o % 8 - 4)

/-- The byte a read of a RAM window returns: 0 at offsets the RAM does not back (20_memory.md R53). -/
def State.windowByte (s : State) (r : Ram) (o : Nat) : Byte :=
  if o < ramBytes s.params r then s.ramByte r o else 0#8

/-- The byte at a bus address outside the register window; unmapped ranges read 0 (20_memory.md R53, R54). -/
def State.busByte (s : State) (a : Nat) : Byte :=
  match regionOf a with
  | .registers => 0#8
  | .segmentTable => s.tableByte (a - 0x01000)
  | .ram r => s.windowByte r (a - ramBase r)
  | .unmapped => 0#8

/-- `Σ_{i<n} byte[a+i] · 256^i` (20_memory.md R53). -/
def State.busBytes (s : State) (a n : Nat) : Word :=
  BitVec.ofNat 32 (((List.range n).map fun i => (s.busByte (a + i)).toNat * 256 ^ i).sum)

/-- The data of a legal read (20_memory.md R52, R53, R54). -/
def State.readData (s : State) (a : Nat) (size : BusSize) : Word :=
  match regionOf a with
  | .registers => s.readRegister a
  | .segmentTable => s.busBytes a size.bytes
  | .ram _ => s.busBytes a size.bytes
  | .unmapped => s.busBytes a size.bytes

/-! ### Writes -/

/-- Issue (10_state.md R25): the word becomes pending, and DONE, ERR and ERRCODE are cleared. -/
def State.issue (s : State) (c : Word) : State :=
  { s with pending := some c, status := s.status.issued }

/-- A write to an offset of the register window (10_state.md R23, R27 to R30); read-only and reserved offsets ignore it (20_memory.md R52). -/
def State.writeRegister (s : State) (off : Nat) (v : Word) : State :=
  match off with
  | 0x004 => s.issue v
  | 0x008 => { s with status := s.status.written v }
  | 0x00C => { s with version := v.setWidth 6 }
  | 0x010 => { s with level := v.setWidth 2 }
  | 0x014 => { s with arg0 := v }
  | 0x018 => { s with arg1 := v }
  | 0x01C => { s with arg2 := v }
  | 0x020 => { s with arg3 := v }
  | _ => s

/-- The bytes of a write, lowest address first (20_memory.md R53). -/
def writeBytes (v : Word) (n : Nat) : List Byte := (List.range n).map (wordByte v)

/-- Whether the host may write a RAM (20_memory.md R51). -/
def hostWritable : Ram → Bool
  | .data => true
  | .frame => true
  | .cand => false
  | .sym => false

/-- A write of bytes to a RAM window: the bytes the RAM backs are stored, the others ignored (20_memory.md R53). -/
def State.writeWindow (s : State) (r : Ram) (o : Nat) (vs : List Byte) : State :=
  if hostWritable r then s.writeRam r o (vs.take (ramBytes s.params r - o)) else s

/-- The effect of a legal write (20_memory.md R52, R53, R54). -/
def State.writeData (s : State) (a : Nat) (size : BusSize) (v : Word) : State :=
  match regionOf a with
  | .registers => s.writeRegister a v
  | .segmentTable => s
  | .ram r => s.writeWindow r (a - ramBase r) (writeBytes v size.bytes)
  | .unmapped => s

/-! ### Transactions -/

/-- A bus error (20_memory.md R55): BUSERR is set and nothing else changes. -/
def State.busError (s : State) : State := { s with status := s.status.busErrored }

/-- BusRead (20_memory.md R50); while rst_n is low it is not performed and reads 0 (70_reset_and_hazards.md R280). -/
def State.busRead (s : State) (addr : BitVec 18) (size : BusSize) : State :=
  if s.rstLow then { s with response := some (.readReply 0#32 false) }
  else if legalAccess addr.toNat size then { s with response := some (.readReply (s.readData addr.toNat size) false) }
  else { s.busError with response := some (.readReply 0#32 true) }

/-- BusWrite (20_memory.md R50); while rst_n is low it is not performed (70_reset_and_hazards.md R280). -/
def State.busWrite (s : State) (addr : BitVec 18) (size : BusSize) (v : Word) : State :=
  if s.rstLow then { s with response := some (.writeReply false) }
  else if legalAccess addr.toNat size then { s.writeData addr.toNat size v with response := some (.writeReply false) }
  else { s.busError with response := some (.writeReply true) }

/-- Hardware reset (70_reset_and_hazards.md R280, R281): the reset state, with a new draw of everything unspecified; a pending command
is abandoned. -/
def State.hardReset (s : State) : State :=
  State.resetWith s.params (s.draws + 1) s.hostQueue

/-- What an action of the outside does to the block (log entry 5 for the reset pin). -/
def State.hostAct (s : State) : HostAction → State
  | .read a size => s.busRead a size
  | .write a size v => s.busWrite a size v
  | .assertReset => if s.rstLow then s else { s.hardReset with rstLow := true }
  | .releaseReset => { s with rstLow := false }

/-- The outside's next action, taken off the queue; with none, the block is idle and holds its state (60_exceptions.md R269). -/
def State.hostStep (s : State) : State :=
  match s.hostQueue with
  | [] => s
  | ev :: rest => { s with hostQueue := rest }.hostAct ev.action

/-- What may come before a pending command completes: a 32-bit read of STATUS (10_state.md R25) and a reset (70_reset_and_hazards.md
R280). Every other transaction is held. -/
def HostAction.mayOvertake : HostAction → Bool
  | .read a size => a == 0x00008#18 && size == .word
  | .write _ _ _ => false
  | .assertReset => true
  | .releaseReset => false

/-- Whether the outside's next action comes before the pending command completes (10_state.md R40, log entry 4). -/
def State.hostFirst (s : State) : Bool :=
  match s.hostQueue with
  | [] => false
  | ev :: _ => ev.early && ev.action.mayOvertake

/-- Make the next action of the outside wait for the pending command. -/
def deferHead : List HostEvent → List HostEvent
  | [] => []
  | ev :: rest => { ev with early := false } :: rest

end Sys2Proof.Machine
end

