-- ==== Sys2Proof/Machine/Bitseq.lean ====
section
/-! DEFINITION. The bit-sequence buffer commands (41_bitseq.md R100 to R108). -/

namespace Sys2Proof.Machine

/-- Append bits to a buffer, all or none (41_bitseq.md R101): past BSB_CAP_BITS the append raises AllocationFailure. -/
def State.appendBits (s : State) (b : Buf) (bits : List Bool) : Except CmdError State :=
  if s.params.bsbCapBits < (s.bsb b).length + bits.length then .error .allocationFailure
  else .ok (s.setBsb b (s.bsb b ++ bits))

/-- BSB_CLEAR (41_bitseq.md R102). -/
def execBsbClear (b : Buf) (s : State) : Host.Outcome State Fault Refusal :=
  finish s (.ok (s.setBsb b []))

/-- BSB_APPEND_BIT (41_bitseq.md R103). -/
def execBsbAppendBit (b : Buf) (f : Bool) (s : State) : Host.Outcome State Fault Refusal :=
  finish s (s.appendBits b [f])

/-- BSB_APPEND_NUM (41_bitseq.md R104): N above 32 is InvalidInput, before the capacity is looked at. -/
def execBsbAppendNum (b : Buf) (n : Nat) (s : State) : Host.Outcome State Fault Refusal :=
  finish s (if 32 < n then .error .invalidInput else s.appendBits b (lowBits n s.arg0))

/-- The check order of BSB_APPEND_BYTES (41_bitseq.md R105): the range first, then the capacity. -/
def State.appendBytes (s : State) (b : Buf) : Except CmdError State :=
  if !s.dataRangeOk s.arg0.toNat s.arg1.toNat then .error .badAddress
  else s.appendBits b ((s.readRam .data s.arg0.toNat s.arg1.toNat).flatMap byteBits)

/-- BSB_APPEND_BYTES (41_bitseq.md R105). -/
def execBsbAppendBytes (b : Buf) (s : State) : Host.Outcome State Fault Refusal :=
  finish s (s.appendBytes b)

/-- BSB_APPEND_SEQ (41_bitseq.md R106): the source is the snapshot's, so `src = b` doubles the buffer. -/
def execBsbAppendSeq (b src : Buf) (s : State) : Host.Outcome State Fault Refusal :=
  finish s (s.appendBits b (s.bsb src))

/-- The body of BSB_GET_BIT (41_bitseq.md R107). -/
def State.getBit (s : State) (b : Buf) : Except CmdError State :=
  match (s.bsb b)[s.arg0.toNat]? with
  | none => .error .invalidIndex
  | some v => .ok (s.setRes0 v.toNat)

/-- BSB_GET_BIT (41_bitseq.md R107). -/
def execBsbGetBit (b : Buf) (s : State) : Host.Outcome State Fault Refusal :=
  finish s (s.getBit b)

/-- The body of BSB_PACK (41_bitseq.md R108). -/
def State.pack (s : State) (b : Buf) : Except CmdError State :=
  let bytes := packBits (s.bsb b)
  if !s.dataRangeOk s.arg0.toNat bytes.length then .error .badAddress
  else .ok ((s.writeRam .data s.arg0.toNat bytes).setRes0 bytes.length)

/-- BSB_PACK (41_bitseq.md R108). -/
def execBsbPack (b : Buf) (s : State) : Host.Outcome State Fault Refusal :=
  finish s (s.pack b)

end Sys2Proof.Machine
end

