-- ==== Sys2Proof/Machine/Control.lean ====
section
/-! DEFINITION. The control commands NOP and SOFT_RESET (40_control.md R91, R92). -/

namespace Sys2Proof.Machine

/-- NOP (40_control.md R91): `writes <- []`. -/
def execNop (s : State) : Host.Outcome State Fault Refusal :=
  finish s (.ok s)

/-- The writes of SOFT_RESET (40_control.md R92): registers, buffers, SEG_COUNT and sticky bits; every RAM and table entry is kept. -/
def State.softReset (s : State) : State :=
  { s with
    version := 0#6, level := 0#2, arg0 := 0#32, arg1 := 0#32, arg2 := 0#32, arg3 := 0#32,
    res := ⟨0#32, 0#32, 0#32, 0#32, 0#32, 0#32, 0#32, 0#32⟩,
    bsb0 := [], bsb1 := [], segCount := 0#32, status := s.status.stickyCleared }

/-- SOFT_RESET (40_control.md R92). -/
def execSoftReset (s : State) : Host.Outcome State Fault Refusal :=
  finish s (.ok s.softReset)

end Sys2Proof.Machine
end

