-- ==== Sys2Proof/Machine/Mask.lean ====
section
/-! DEFINITION. The mask engine (45_mask.md R210 to R232): candidates, format information, demerits, selection, and MASK_EVAL, MASK_SELECT and MASK_FORCE. -/

namespace Sys2Proof.Machine

/-! ### Candidates -/

/-- `pred_k(x, y)` (45_mask.md R210). -/
def maskPred (k : Fin 8) (x y : Nat) : Nat :=
  match k with
  | 0 => (x + y) % 2
  | 1 => y % 2
  | 2 => x % 3
  | 3 => (x + y) % 3
  | 4 => (y / 2 + x / 3) % 2
  | 5 => x * y % 2 + x * y % 3
  | 6 => (x * y % 2 + x * y % 3) % 2
  | 7 => (x * y % 3 + (x + y) % 2) % 2

/-- One module under mask `k` (45_mask.md R211): a reserved one is copied; else bit 0 flips when the predicate is zero. -/
def maskedByte (k : Fin 8) (x y : Nat) (v : Byte) : Byte :=
  if v.getLsbD 7 then v else if maskPred k x y = 0 then v ^^^ 0x01#8 else v

/-! ### Format information -/

/-- The level bits of the format word (45_mask.md R214): `l XOR 1`. -/
def levelBits (l : BitVec 2) : BitVec 2 := l ^^^ 1#2

/-- The BCH reduction loop of `fmt` for bits `9 + i` down to 10 (45_mask.md R213). -/
def bchReduce : (i : Nat) → BitVec 15 → BitVec 15
  | 0, r => r
  | i + 1, r => bchReduce i (if r.getLsbD (i + 10) then r ^^^ (0x537#15 <<< i) else r)

/-- `fmt(l, k)` (45_mask.md R213). -/
def formatWord (l : BitVec 2) (k : Fin 8) : BitVec 15 :=
  let d : BitVec 15 := ((levelBits l).setWidth 15 <<< 3) ||| BitVec.ofNat 15 k.val
  ((d <<< 10) ||| bchReduce 5 (d <<< 10)) ^^^ 0x5412#15

/-- The format-information ROM (45_mask.md R216), a row per LEVEL code. Constant state of the block (10_state.md R20). -/
def formatRom : List (List (BitVec 15)) :=
  [ [0x77C4#15, 0x72F3#15, 0x7DAA#15, 0x789D#15, 0x662F#15, 0x6318#15, 0x6C41#15, 0x6976#15],
    [0x5412#15, 0x5125#15, 0x5E7C#15, 0x5B4B#15, 0x45F9#15, 0x40CE#15, 0x4F97#15, 0x4AA0#15],
    [0x355F#15, 0x3068#15, 0x3F31#15, 0x3A06#15, 0x24B4#15, 0x2183#15, 0x2EDA#15, 0x2BED#15],
    [0x1689#15, 0x13BE#15, 0x1CE7#15, 0x19D0#15, 0x0762#15, 0x0255#15, 0x0D0C#15, 0x083B#15] ]

/-- `ROM[LEVEL][k]` (45_mask.md R217). -/
def romWord (l : BitVec 2) (k : Fin 8) : BitVec 15 := (formatRom.getD l.toNat []).getD k.val 0#15

/-- Where bit `t` goes in the first copy (45_mask.md R215), as (x, y). -/
def formatFirst (t : Nat) : Nat × Nat :=
  if t ≤ 5 then (8, t)
  else if t ≤ 7 then (8, t + 1)
  else if t = 8 then (7, 8)
  else (14 - t, 8)

/-- Where bit `t` goes in the second copy (45_mask.md R215), as (x, y). -/
def formatSecond (w t : Nat) : Nat × Nat :=
  if t ≤ 7 then (w - 1 - t, 8) else (8, w - 15 + t)

/-- The byte of a format module: `0x84 | f[t]` (45_mask.md R215). -/
def formatByte (bit : Bool) : Byte := if bit then 0x85#8 else 0x84#8

/-- The 30 module bytes of a format word (45_mask.md R215). The positions are distinct, so their order does not matter (log entry 12). -/
def formatModules (w : Nat) (f : BitVec 15) : List ((Nat × Nat) × Byte) :=
  (List.range 15).map (fun t => (formatFirst t, formatByte (f.getLsbD t))) ++
  (List.range 15).map (fun t => (formatSecond w t, formatByte (f.getLsbD t)))

/-! ### Grids -/

/-- A grid of module bytes, a list of rows, each from column 0 (00_scope.md R14). -/
abbrev Grid := List (List Byte)

/-- Module (x, y). -/
def Grid.cell (g : Grid) (x y : Nat) : Byte := (g.getD y []).getD x 0#8

/-- Whether module (x, y) is dark: bit 0 (10_state.md R37). -/
def Grid.dark (g : Grid) (x y : Nat) : Bool := (g.cell x y).getLsbD 0

/-- The grid of width `w` whose module (x, y) is `f x y`. -/
def Grid.ofFn (w : Nat) (f : Nat → Nat → Byte) : Grid :=
  (List.range w).map fun y => (List.range w).map fun x => f x y

/-- Module (x, y) of candidate `k` (45_mask.md R217): masked, then overwritten where the format word goes. -/
def candidateByte (w : Nat) (frame : Nat → Byte) (l : BitVec 2) (k : Fin 8) (x y : Nat) : Byte :=
  ((formatModules w (romWord l k)).lookup (x, y)).getD (maskedByte k x y (frame (y * w + x)))

/-- `cand(k)` (45_mask.md R217) from FRAME_RAM, VERSION and LEVEL. -/
def State.candidate (s : State) (k : Fin 8) : Grid :=
  Grid.ofFn s.gridWidth (candidateByte s.gridWidth (s.ramByte .frame) s.level k)

/-! ### Demerits -/

/-- Row `y` of the colours of a grid of width `w`. -/
def Grid.row (g : Grid) (w y : Nat) : List Bool := (List.range w).map fun x => g.dark x y

/-- Column `x` of the colours of a grid of width `w`. -/
def Grid.column (g : Grid) (w x : Nat) : List Bool := (List.range w).map fun y => g.dark x y

/-- The 2W lines of 45_mask.md section 3. -/
def Grid.lines (g : Grid) (w : Nat) : List (List Bool) :=
  (List.range w).map (g.row w) ++ (List.range w).map (g.column w)

/-- The loop of `runs`: the rest of a line, after `n` modules of colour `cur` (45_mask.md R218). -/
def runsFrom (cur : Bool) (n : Int) : List Bool → List Int
  | [] => [n]
  | b :: rest => if b = cur then runsFrom cur (n + 1) rest else n :: runsFrom b 1 rest

/-- `runs(m)` (45_mask.md R218): even indices light, odd indices dark, -1 for an empty light run at the start. -/
def runs : List Bool → List Int
  | [] => []
  | b :: rest => if b then (-1) :: runsFrom b 1 rest else runsFrom b 1 rest

/-- N1 of one line (45_mask.md R219). -/
def lineN1 (r : List Int) : Nat :=
  (r.map fun n => if 5 ≤ n then (3 + (n - 5)).toNat else 0).sum

/-- Whether the run list holds a finder-like pattern centred on run `i` that is flanked by light (45_mask.md R221). -/
def finderAt (r : List Int) (i : Nat) : Bool :=
  let at_ := fun j => r.getD j 0
  let f := at_ i / 3
  at_ i % 3 == 0 && at_ (i - 2) == f && at_ (i - 1) == f && at_ (i + 1) == f && at_ (i + 2) == f &&
  ((i == 3 || decide (4 * f ≤ at_ (i - 3))) || (decide (r.length ≤ i + 4) || decide (4 * f ≤ at_ (i + 3))))

/-- N3 of one line (45_mask.md R221): odd `i` with `3 ≤ i < len − 2`, each pattern 40 once. -/
def lineN3 (r : List Int) : Nat :=
  ((List.range r.length).map fun i =>
    if i % 2 = 1 ∧ 3 ≤ i ∧ i + 2 < r.length ∧ finderAt r i then 40 else 0).sum

/-- Whether the 2×2 block with lower right module (x, y) has one colour (45_mask.md R220). -/
def Grid.uniformBlock (g : Grid) (x y : Nat) : Bool :=
  g.dark x y == g.dark (x - 1) y && g.dark x y == g.dark x (y - 1) && g.dark x y == g.dark (x - 1) (y - 1)

/-- N2 (45_mask.md R220): 3 for each uniform block, 1 ≤ x, y ≤ W − 1. -/
def Grid.n2 (g : Grid) (w : Nat) : Nat :=
  ((List.range (w - 1)).map fun y => ((List.range (w - 1)).map fun x =>
    if g.uniformBlock (x + 1) (y + 1) then 3 else 0).sum).sum

/-- `dark` (45_mask.md R222): the number of dark modules. -/
def Grid.darkCount (g : Grid) (w : Nat) : Nat :=
  ((List.range w).map fun y => (g.row w y).count true).sum

/-- `pct` (45_mask.md R222): 100·dark/A by N4_ROUNDING. -/
def darkPercent (m : N4Rounding) (dark area : Nat) : Nat :=
  match m with
  | .round => (200 * dark + area) / (2 * area)
  | .truncate => 100 * dark / area

/-- N4 (45_mask.md R222): `10 · (|pct − 50| div 5)`. -/
def demeritN4 (m : N4Rounding) (dark area : Nat) : Nat :=
  10 * (((darkPercent m dark area : Int) - 50).natAbs / 5)

/-- The demerits of a candidate (45_mask.md R219 to R222). -/
structure Demerits where
  n1 : Nat
  n2 : Nat
  n3 : Nat
  n4 : Nat
  dark : Nat
  deriving DecidableEq, Repr

/-- `score(k)` (45_mask.md R223). -/
def Demerits.total (d : Demerits) : Nat := d.n1 + d.n2 + d.n3 + d.n4

/-- The demerits of a grid of width `w` (45_mask.md R219 to R222). -/
def Grid.demerits (m : N4Rounding) (w : Nat) (g : Grid) : Demerits :=
  let rs := (g.lines w).map runs
  let dark := g.darkCount w
  { n1 := (rs.map lineN1).sum
    n2 := g.n2 w
    n3 := (rs.map lineN3).sum
    n4 := demeritN4 m dark (w * w)
    dark := dark }

/-- The demerits of candidate `k`. -/
def State.candidateDemerits (s : State) (k : Fin 8) : Demerits :=
  (s.candidate k).demerits s.params.n4Rounding s.gridWidth

/-- The selection loop of 45_mask.md R224: only a strictly lower score replaces the running best. -/
def selectBest (score : Fin 8 → Nat) : Fin 8 :=
  ([1, 2, 3, 4, 5, 6, 7] : List (Fin 8)).foldl (fun best k => if score k < score best then k else best) 0

/-! ### The commands -/

/-- Write a grid to bytes 0 to W² − 1 of a RAM (20_memory.md R58). -/
def State.writeGrid (s : State) (r : Ram) (g : Grid) : State := s.writeRam r 0 g.flatten

/-- RES0 to RES6 of a scored candidate (10_state.md R32). -/
def State.setScore (s : State) (k : Fin 8) (d : Demerits) : State :=
  s.setRes0to6 d.total k.val d.n1 d.n2 d.n3 d.n4 d.dark

/-- The body of MASK_EVAL (45_mask.md R228). -/
def State.maskEval (s : State) (k : Fin 8) : Except CmdError State :=
  if !s.gridVersionOk then .error .invalidInput
  else .ok ((s.writeGrid .cand (s.candidate k)).setScore k (s.candidateDemerits k))

/-- MASK_EVAL (45_mask.md R228). -/
def execMaskEval (k : Fin 8) (s : State) : Host.Outcome State Fault Refusal :=
  finish s (s.maskEval k)

/-- The mask MASK_SELECT chooses (45_mask.md R224). -/
def State.bestMask (s : State) : Fin 8 := selectBest fun k => (s.candidateDemerits k).total

/-- The body of MASK_SELECT (45_mask.md R230): the winner to SYM_RAM, candidate 7 to CAND_RAM. -/
def State.maskSelect (s : State) : Except CmdError State :=
  if !s.gridVersionOk then .error .invalidInput
  else
    let b := s.bestMask
    .ok (((s.writeGrid .sym (s.candidate b)).writeGrid .cand (s.candidate 7)).setScore b (s.candidateDemerits b))

/-- MASK_SELECT (45_mask.md R230). -/
def execMaskSelect (s : State) : Host.Outcome State Fault Refusal :=
  finish s s.maskSelect

/-- The body of MASK_FORCE (45_mask.md R232): no scoring, the score registers zeroed. -/
def State.maskForce (s : State) (k : Fin 8) : Except CmdError State :=
  if !s.gridVersionOk then .error .invalidInput
  else .ok ((s.writeGrid .sym (s.candidate k)).setRes0to6 0 k.val 0 0 0 0 0)

/-- MASK_FORCE (45_mask.md R232). -/
def execMaskForce (k : Fin 8) (s : State) : Host.Outcome State Fault Refusal :=
  finish s (s.maskForce k)

end Sys2Proof.Machine
end

