-- ==== Sys2Proof/Machine/Placer.lean ====
section
/-! DEFINITION. The module placer (44_placer.md R190 to R195): the cursor, the skip of reserved modules, the placed bits and FILL. -/

namespace Sys2Proof.Machine

/-- The cursor (44_placer.md R191): `up` is dir = -1; `second` is phase 1. Working state of one command (10_state.md R44). -/
structure Cursor where
  x : Int
  y : Int
  up : Bool
  second : Bool
  deriving DecidableEq, Repr

/-- The start position: bottom right, going up (44_placer.md R191). -/
def Cursor.start (w : Nat) : Cursor := ⟨w - 1, w - 1, true, false⟩

/-- The move within a column pair (44_placer.md R192, first part of `advance`). -/
def Cursor.move (c : Cursor) : Cursor :=
  if c.second then ⟨c.x + 1, if c.up then c.y - 1 else c.y + 1, c.up, false⟩
  else ⟨c.x - 1, c.y, c.up, true⟩

/-- The turn into the next column pair when a move leaves the grid (44_placer.md R192, second part of `advance`). -/
def Cursor.turn (w : Nat) (c : Cursor) : Cursor :=
  if c.up ∧ c.y < 0 then
    if c.x - 2 = 6 then ⟨5, 9, false, c.second⟩ else ⟨c.x - 2, 0, false, c.second⟩
  else if ¬ c.up ∧ c.y = w then
    if c.x - 2 = 6 then ⟨5, (w : Int) - 1 - 8, true, c.second⟩ else ⟨c.x - 2, (w : Int) - 1, true, c.second⟩
  else c

/-- One cursor step, `advance` (44_placer.md R192). -/
def Cursor.advance (w : Nat) (c : Cursor) : Cursor := c.move.turn w

/-- The grid index y·W + x of a position (00_scope.md R14). -/
def Cursor.index (w : Nat) (c : Cursor) : Nat := (c.y * w + c.x).toNat

/-- The skip loop of `next_free` (44_placer.md R193); none is FrameOverflow. 44_placer.md R197 bounds the loop by 2·W² steps
(log entry 9). -/
def skipReserved (w : Nat) (reserved : Nat → Bool) : (fuel : Nat) → Cursor → Option Cursor
  | 0, _ => none
  | fuel + 1, c =>
    if c.x < 0 then none
    else if reserved (c.index w) then skipReserved w reserved fuel (c.advance w)
    else some c

/-- `next_free(first)` (44_placer.md R193), from the position of the previous bit. -/
def nextFree (w : Nat) (reserved : Nat → Bool) (first : Bool) (c : Cursor) : Option Cursor :=
  skipReserved w reserved (2 * w * w + 1) (if first then c else c.advance w)

/-- Bit `t` of the placed list: the codewords' bits, most significant first, then remainder bits 0 (44_placer.md R194). -/
def streamBit (codewords : List Byte) (t : Nat) : Bool :=
  (codewords.getD (t / 8) 0#8).getLsbD (7 - t % 8)

/-- The module byte of a placed bit: `0x02 | bits[t]` (44_placer.md R194). -/
def placedByte (bit : Bool) : Byte := if bit then 0x03#8 else 0x02#8

/-- The loop of FILL for bits `t` on, `left` of them (44_placer.md R195): the bytes it writes, or none for FrameOverflow. -/
def placeFrom (w : Nat) (reserved : Nat → Bool) (bit : Nat → Bool) : (left t : Nat) → Cursor → Option (List (Nat × Byte))
  | 0, _, _ => some []
  | left + 1, t, c =>
    match nextFree w reserved (t == 0) c with
    | none => none
    | some p =>
      match placeFrom w reserved bit left (t + 1) p with
      | none => none
      | some rest => some ((p.index w, placedByte (bit t)) :: rest)

/-- Whether a module byte is reserved: bit 7 (10_state.md R37). -/
def isReserved (v : Byte) : Bool := v.getLsbD 7

/-- The body of FILL (44_placer.md R195). The modules FILL writes are not reserved before or after, so the skip loop may read the
snapshot; the bytes it does not place keep their contents (log entry 10). -/
def State.fill (s : State) : Except CmdError State :=
  let a := s.arg0.toNat
  let n := s.arg1.toNat
  let r := s.arg2.toNat
  let w := s.gridWidth
  if !s.gridVersionOk then .error .invalidInput
  else if !s.dataRangeOk a n then .error .badAddress
  else
    match placeFrom w (fun i => isReserved (s.ramByte .frame i)) (streamBit (s.readRam .data a n)) (8 * n + r) 0 (Cursor.start w) with
    | none => .error .frameOverflow
    | some cells => .ok ((s.writeRamEach .frame cells).setRes0 (8 * n + r))

/-- FILL (44_placer.md R195). -/
def execFill (s : State) : Host.Outcome State Fault Refusal :=
  finish s s.fill

end Sys2Proof.Machine
end

