-- ==== Sys2Proof/Machine/ReedSolomon.lean ====
section
/-! DEFINITION. The Reed-Solomon block encoder and the block builder (43_reed_solomon.md R160 to R167): the field, the generator, the parity, RS_BLOCK and RS_INTERLEAVE. -/

namespace Sys2Proof.Machine

/-! ### The field and the generator -/

/-- `r << 1`, reduced by 0x11D when bit 8 comes out (43_reed_solomon.md R160). -/
def gfDouble (r : Byte) : Byte :=
  if r.getLsbD 7 then (r <<< 1) ^^^ 0x1D#8 else r <<< 1

/-- The loop of `gmul`: the bits of `b` from `i` - 1 down to 0, with `r` so far (43_reed_solomon.md R160). -/
def gmulFrom (a b : Byte) : (i : Nat) → (r : Byte) → Byte
  | 0, r => r
  | i + 1, r => gmulFrom a b i (if b.getLsbD i then gfDouble r ^^^ a else gfDouble r)

/-- `a ⊗ b` in GF(256) (43_reed_solomon.md R160). -/
def gmul (a b : Byte) : Byte := gmulFrom a b 8 0#8

/-- `α^i`, with α = 0x02 (43_reed_solomon.md R160). -/
def alphaPow : Nat → Byte
  | 0 => 0x01#8
  | i + 1 => gmul (alphaPow i) 0x02#8

/-- A polynomial, highest coefficient first, times `(x ⊕ c)`. -/
def mulRoot (g : List Byte) (c : Byte) : List Byte :=
  List.zipWith (· ^^^ ·) (g ++ [0#8]) (0#8 :: g.map (fun v => gmul v c))

/-- The coefficients `g_n[0..n]` of the generator polynomial, from x^n down (43_reed_solomon.md R161). -/
def generator : Nat → List Byte
  | 0 => [0x01#8]
  | n + 1 => mulRoot (generator n) (alphaPow n)

/-- One data byte into the shift register (43_reed_solomon.md R163); `g` is `g_n[1..n]`. -/
def rsShift (g : List Byte) (reg : List Byte) (d : Byte) : List Byte :=
  let fb := d ^^^ reg.headD 0#8
  List.zipWith (fun r c => r ^^^ gmul fb c) (reg.tail ++ [0#8]) g

/-- `rs_parity(d, n)` (43_reed_solomon.md R163, which R162 says gives the same bytes as the division). -/
def rsParity (d : List Byte) (n : Nat) : List Byte :=
  d.foldl (rsShift (generator n).tail) (List.replicate n 0#8)

/-! ### RS_BLOCK -/

/-- The body of RS_BLOCK (43_reed_solomon.md R165). -/
def State.rsBlock (s : State) : Except CmdError State :=
  let a := s.arg0.toNat
  let k := s.arg1.toNat
  let o := s.arg2.toNat
  let n := s.arg3.toNat
  if k = 0 ∨ n = 0 ∨ 255 < k + n then .error .invalidInput
  else if !s.dataRangeOk a k || !s.dataRangeOk o n then .error .badAddress
  else .ok ((s.writeRam .data o (rsParity (s.readRam .data a k) n)).setRes0 n)

/-- RS_BLOCK (43_reed_solomon.md R165). -/
def execRsBlock (s : State) : Host.Outcome State Fault Refusal :=
  finish s s.rsBlock

/-! ### RS_INTERLEAVE -/

/-- `block(r)` of the data stream (43_reed_solomon.md R166). -/
def Geometry.block (g : Geometry) (stream : List Byte) (r : Nat) : List Byte :=
  if r < g.b1 then (stream.drop (r * g.d1)).take g.d1
  else (stream.drop (g.b1 * g.d1 + (r - g.b1) * g.d2)).take g.d2

/-- Byte `col` of row `row` of a table of byte lists. -/
def cellAt (rows : List (List Byte)) (row col : Nat) : Byte := (rows.getD row []).getD col 0#8

/-- The data part of the output, column-major across blocks; only group-2 blocks have column d1 (43_reed_solomon.md R167). -/
def Geometry.dataPart (g : Geometry) (blk : List (List Byte)) : List Byte :=
  (List.range g.dataLen).map fun i =>
    let row := i % g.blocks
    let col := i / g.blocks
    cellAt blk (if g.d1 ≤ col then row + g.b1 else row) col

/-- The parity part of the output, column-major across blocks (43_reed_solomon.md R167). -/
def Geometry.parityPart (g : Geometry) (ecc : List (List Byte)) : List Byte :=
  (List.range g.parityLen).map fun j => cellAt ecc (j % g.blocks) (j / g.blocks)

/-- The interleaved codeword stream of a data stream (43_reed_solomon.md R167). -/
def Geometry.interleave (g : Geometry) (stream : List Byte) : List Byte :=
  let blk := (List.range g.blocks).map (g.block stream)
  g.dataPart blk ++ g.parityPart (blk.map fun d => rsParity d g.e)

/-- The body of RS_INTERLEAVE (43_reed_solomon.md R167). -/
def State.rsInterleave (s : State) : Except CmdError State :=
  let g := s.geometry
  let a := s.arg0.toNat
  let o := s.arg2.toNat
  if !g.legal then .error .invalidInput
  else if !s.dataRangeOk a g.dataLen || !s.dataRangeOk o (g.dataLen + g.parityLen) then .error .badAddress
  else
    .ok ((s.writeRam .data o (g.interleave (s.readRam .data a g.dataLen))).setRes012
      (g.dataLen + g.parityLen) g.dataLen g.parityLen)

/-- RS_INTERLEAVE (43_reed_solomon.md R167). -/
def execRsInterleave (s : State) : Host.Outcome State Fault Refusal :=
  finish s s.rsInterleave

end Sys2Proof.Machine
end

