-- ==== Sys2Proof/Machine/Segmenter.lean ====
section
/-! DEFINITION. The mode segmenter (42_segmenter.md R130 to R140): character classes, costs, the three absorb operations, the scan, case folding and SEG_SPLIT. -/

namespace Sys2Proof.Machine

/-! ### Classes and costs -/

/-- The Alphanumeric value of a byte of ANSET, none outside it (42_segmenter.md R130). The segmenter uses only membership. -/
def alnumValue (c : Byte) : Option Nat :=
  if 0x30#8 ≤ c ∧ c ≤ 0x39#8 then some (c.toNat - 0x30)
  else if 0x41#8 ≤ c ∧ c ≤ 0x5A#8 then some (c.toNat - 0x41 + 10)
  else if c = 0x20#8 then some 36
  else if c = 0x24#8 then some 37
  else if c = 0x25#8 then some 38
  else if c = 0x2A#8 then some 39
  else if c = 0x2B#8 then some 40
  else if c = 0x2D#8 then some 41
  else if c = 0x2E#8 then some 42
  else if c = 0x2F#8 then some 43
  else if c = 0x3A#8 then some 44
  else none

/-- The classes of 42_segmenter.md R130. -/
inductive CharClass where
  | num | an | byte | endOfInput
  deriving DecidableEq, Repr

/-- The class of a byte (42_segmenter.md R130). -/
def classOf (c : Byte) : CharClass :=
  if 0x30#8 ≤ c ∧ c ≤ 0x39#8 then .num
  else if (alnumValue c).isSome then .an
  else .byte

/-- `cls(i)` (42_segmenter.md R130), END at and past the end. -/
def clsAt (cs : List CharClass) (i : Nat) : CharClass := cs.getD i .endOfInput

/-- `isNum` of 42_segmenter.md R130. -/
def CharClass.isNum (c : CharClass) : Bool := c == .num

/-- `isAn` of 42_segmenter.md R130. -/
def CharClass.isAn (c : CharClass) : Bool := c == .num || c == .an

/-- `q <- i ; while p(q): q <- q + 1`: the end of the run of class `p` that starts at `i`. -/
def runEnd (cs : List CharClass) (p : CharClass → Bool) (i : Nat) : Nat :=
  i + ((cs.drop i).takeWhile p).length

/-- The length-indicator widths of one version range (42_segmenter.md R131), and the one charged for resuming (R134). -/
structure Widths where
  ln : Nat
  la : Nat
  l8 : Nat
  resume : Nat
  deriving DecidableEq, Repr

/-- `LIres` (42_segmenter.md R134). -/
def resumeWidth (x : AnResumeLi) (ln la : Nat) : Nat :=
  match x with
  | .ln => ln
  | .la => la

/-- The widths for a version (42_segmenter.md R131); version 0 uses the 1-9 column. -/
def widthsFor (x : AnResumeLi) (v : Nat) : Widths :=
  if v ≤ 9 then ⟨10, 9, 8, resumeWidth x 10 9⟩
  else if v ≤ 26 then ⟨12, 11, 16, resumeWidth x 12 11⟩
  else ⟨14, 13, 16, resumeWidth x 14 13⟩

/-- `estN(n)` (42_segmenter.md R132). -/
def estN (n : Nat) : Nat := n / 3 * 10 + [0, 4, 7].getD (n % 3) 0

/-- `estA(n)` (42_segmenter.md R132). -/
def estA (n : Nat) : Nat := n / 2 * 11 + n % 2 * 6

/-- `est8(n)` (42_segmenter.md R132). -/
def est8 (n : Nat) : Nat := 8 * n

/-! ### The absorb operations -/

/-- The modes of 10_state.md R39. -/
inductive SegMode where
  | num | an | byte
  deriving DecidableEq, Repr

/-- MODE: 0 = Numeric, 1 = Alphanumeric, 2 = Byte (10_state.md R39). -/
def SegMode.code : SegMode → BitVec 2
  | .num => 0#2
  | .an => 1#2
  | .byte => 2#2

/-- What an absorb emits: a mode and a length, at the position it started from. -/
structure Absorbed where
  mode : SegMode
  len : Nat
  deriving DecidableEq, Repr

/-- The loop of absorb-byte (42_segmenter.md R135) from position `p`, for a run that started at `st`. Each pass moves `p` on, so
`cs.length` passes suffice (log entry 9). -/
def absorbByteEnd (w : Widths) (cs : List CharClass) (st : Nat) : (fuel p : Nat) → Nat
  | 0, p => p
  | fuel + 1, p =>
    if p < cs.length then
      match clsAt cs p with
      | .num =>
        let q := runEnd cs CharClass.isNum p
        let sw := if clsAt cs q = .byte then 4 + w.l8 else 0
        let dif : Int := (est8 (p - st) + estN (q - p) + 4 + w.ln + sw : Nat) - (est8 (q - st) : Nat)
        if dif < 0 then p else absorbByteEnd w cs st fuel q
      | .an =>
        let q := runEnd cs CharClass.isAn p
        let sw := if clsAt cs q = .byte then 4 + w.l8 else 0
        let dif : Int := (est8 (p - st) + estA (q - p) + 4 + w.la + sw : Nat) - (est8 (q - st) : Nat)
        if dif < 0 then p else absorbByteEnd w cs st fuel q
      | .byte => absorbByteEnd w cs st fuel (p + 1)
      | .endOfInput => p
    else p

/-- absorb-byte (42_segmenter.md R135): the first byte is always taken. -/
def absorbByte (w : Widths) (cs : List CharClass) (st : Nat) : Absorbed :=
  ⟨.byte, absorbByteEnd w cs st cs.length (st + 1) - st⟩

/-- The loop of absorb-alphanumeric (42_segmenter.md R134) from position `p`, for a run that started at `st`; `cs.length + 1` passes
suffice (log entry 9). -/
def absorbAnEnd (w : Widths) (cs : List CharClass) (st : Nat) : (fuel p : Nat) → Nat
  | 0, p => p
  | fuel + 1, p =>
    match clsAt cs p with
    | .num =>
      let q := runEnd cs CharClass.isNum p
      let resume := if (clsAt cs q).isAn then 4 + w.resume else 0
      let dif : Int := (estA (p - st) + estN (q - p) + 4 + w.ln + resume : Nat) - (estA (q - st) : Nat)
      if dif < 0 then p else absorbAnEnd w cs st fuel q
    | .an => absorbAnEnd w cs st fuel (p + 1)
    | .byte => p
    | .endOfInput => p

/-- absorb-alphanumeric (42_segmenter.md R134). -/
def absorbAn (w : Widths) (cs : List CharClass) (st : Nat) : Absorbed :=
  let p := absorbAnEnd w cs st (cs.length + 1) st
  let run := p - st
  let dif : Int := (estA run + 4 + w.la + est8 1 : Nat) - (est8 (run + 1) : Nat)
  if clsAt cs p = .byte ∧ 0 < dif then absorbByte w cs st else ⟨.an, run⟩

/-- absorb-numeric (42_segmenter.md R133): a tie stays Numeric. -/
def absorbNum (w : Widths) (cs : List CharClass) (st : Nat) : Absorbed :=
  let p := runEnd cs CharClass.isNum st
  let run := p - st
  let difByte : Int := (estN run + 4 + w.ln + est8 1 : Nat) - (est8 (run + 1) : Nat)
  let difAn : Int := (estN run + 4 + w.ln + estA 1 : Nat) - (estA (run + 1) : Nat)
  if clsAt cs p = .byte ∧ 0 < difByte then absorbByte w cs st
  else if clsAt cs p = .an ∧ 0 < difAn then absorbAn w cs st
  else ⟨.num, run⟩

/-- The absorb the class of the first byte selects (42_segmenter.md R136). -/
def absorb (w : Widths) (cs : List CharClass) (st : Nat) : Absorbed :=
  match clsAt cs st with
  | .num => absorbNum w cs st
  | .an => absorbAn w cs st
  | .byte => absorbByte w cs st
  | .endOfInput => ⟨.byte, 0⟩

/-! ### The scan -/

/-- A segment of the input: a mode, the position of its first byte in the input, and its length. -/
structure Segment where
  mode : SegMode
  start : Nat
  len : Nat
  deriving DecidableEq, Repr

/-- The loop of `split` (42_segmenter.md R136) from position `i`; every absorb takes at least one byte, so `cs.length` passes suffice
(log entry 9). -/
def splitFrom (w : Widths) (cs : List CharClass) : (fuel i : Nat) → List Segment
  | 0, _ => []
  | fuel + 1, i =>
    if i < cs.length then
      let a := absorb w cs i
      ⟨a.mode, i, a.len⟩ :: splitFrom w cs fuel (i + a.len)
    else []

/-- `split(s, L)` (42_segmenter.md R136). -/
def split (w : Widths) (s : List Byte) : List Segment :=
  splitFrom w (s.map classOf) s.length 0

/-- `emit` (42_segmenter.md section 2): the table entry of a segment of the input at DATA_RAM offset `base`. -/
def Segment.entry (base : Nat) (g : Segment) : SegEntry :=
  ⟨g.mode.code, BitVec.ofNat 16 (base + g.start), BitVec.ofNat 16 g.len⟩

/-- Case folding of one byte (42_segmenter.md R138): only 0x61 to 0x7A change. -/
def foldCase (c : Byte) : Byte :=
  if 0x61#8 ≤ c ∧ c ≤ 0x7A#8 then c - 0x20#8 else c

/-! ### The command -/

/-- The body of SEG_SPLIT (42_segmenter.md R140). -/
def State.segSplit (s : State) (f : Bool) : Except CmdError State :=
  let a := s.arg0.toNat
  let len := s.arg1.toNat
  if len = 0 ∨ 65535 < len then .error .invalidInput
  else if 40 < s.version.toNat then .error .invalidInput
  else if !s.dataRangeOk a len then .error .badAddress
  else
    let raw := s.readRam .data a len
    let text := if f then raw.map foldCase else raw
    let out := split (widthsFor s.params.anResumeLi s.version.toNat) text
    if s.params.nsegMax < out.length then .error .allocationFailure
    else
      let t := (s.writeSegs (out.map (Segment.entry a))).setRes0 out.length
      .ok (if f then t.writeRam .data a text else t)

/-- SEG_SPLIT (42_segmenter.md R140). -/
def execSegSplit (f : Bool) (s : State) : Host.Outcome State Fault Refusal :=
  finish s (s.segSplit f)

end Sys2Proof.Machine
end

