-- ==== Sys2Proof/Machine/Dispatch.lean ====
section
/-! DEFINITION. exec: the execution of one command (40_control.md R90), one arm per constructor of Instr. -/

namespace Sys2Proof.Machine

def exec (i : Instr) (s : State) : Host.Outcome State Fault Refusal :=
  match i with
  | .nop => Sys2Proof.Machine.execNop s
  | .softReset => Sys2Proof.Machine.execSoftReset s
  | .bsbClear b => Sys2Proof.Machine.execBsbClear b s
  | .bsbAppendBit b f => Sys2Proof.Machine.execBsbAppendBit b f s
  | .bsbAppendNum b n => Sys2Proof.Machine.execBsbAppendNum b n s
  | .bsbAppendBytes b => Sys2Proof.Machine.execBsbAppendBytes b s
  | .bsbAppendSeq b src => Sys2Proof.Machine.execBsbAppendSeq b src s
  | .bsbGetBit b => Sys2Proof.Machine.execBsbGetBit b s
  | .bsbPack b => Sys2Proof.Machine.execBsbPack b s
  | .segSplit f => Sys2Proof.Machine.execSegSplit f s
  | .rsBlock => Sys2Proof.Machine.execRsBlock s
  | .rsInterleave => Sys2Proof.Machine.execRsInterleave s
  | .fill => Sys2Proof.Machine.execFill s
  | .maskEval k => Sys2Proof.Machine.execMaskEval k s
  | .maskSelect => Sys2Proof.Machine.execMaskSelect s
  | .maskForce k => Sys2Proof.Machine.execMaskForce k s

end Sys2Proof.Machine
end

