-- ==== Sys2Proof/Machine/Step.lean ====
section
/-! DEFINITION. One step of the block: the sequencer's (40_control.md R90) or the host port's (20_memory.md R63). -/

namespace Sys2Proof.Machine

/-- `execute(c)` (40_control.md R90): an illegal word completes with IllegalCommand. -/
def runCommand (c : Word) (s : State) : Host.Outcome State Fault Refusal :=
  match decode c with
  | .ok i => exec i s
  | .error _ => .next (s.raiseError .illegalCommand)

/-- One step. While a command is pending the sequencer executes and completes it, unless the outside's next action is a STATUS read or
a reset that comes first (10_state.md R25, R40); with none pending, the outside's next action is performed. -/
def step (s : State) : Host.Outcome State Fault Refusal :=
  match s.pending with
  | some c => if s.hostFirst then .next s.hostStep else runCommand c s
  | none => .next s.hostStep

/-- The state in which the word `w` (its low `nbits` bits, every bit above them 0) has been issued (10_state.md R25) and the very next
step executes it: the reset pin is released and no queued action comes first. It stands for a host's CMD write (log entry 7). -/
def State.withFetchWord (s : State) (nbits w : Nat) : State :=
  { s with rstLow := false, hostQueue := deferHead s.hostQueue }.issue (BitVec.ofNat 32 (w % 2 ^ nbits))

end Sys2Proof.Machine
end

