-- ==== Sys2Proof/Safety.lean ====
section
/-! DEFINITION. What counts as a safe state and run, in the terms the statements use: the invariant of the block, what a command keeps, and the declarative readings of the spec's loops that statements compare the machine with. -/

namespace Sys2Proof.Machine

/-! ### The invariant -/

/-- The values of ERRCODE: 0 and the codes a command raises; 2, 3 and 9 to 255 are never produced (60_exceptions.md R252). -/
def errCodes : List (BitVec 8) := [0#8, 1#8, 4#8, 5#8, 6#8, 7#8, 8#8]

/-- What holds of the block at reset and after every step. -/
structure State.Inv (s : State) : Prop where
  /-- The parameters are in the ranges of 00_scope.md R8. -/
  params_legal : s.params.legal
  /-- Each RAM keeps its canonical form, within its size (10_state.md R33 to R36). -/
  rams_wf : ∀ r, (s.ram r).wf (ramBytes s.params r)
  /-- Each buffer holds at most BSB_CAP_BITS bits (10_state.md R38). -/
  buffers_fit : ∀ b, (s.bsb b).length ≤ s.params.bsbCapBits
  /-- The table has at most NSEG_MAX entries (10_state.md R39). -/
  table_fits : s.segs.length ≤ s.params.nsegMax
  /-- SEG_COUNT counts entries that have been written (10_state.md R39). -/
  count_written : s.segCount.toNat ≤ s.segs.length
  /-- RES7 "always reads 0" (10_state.md R32). -/
  res7_zero : s.res.res7 = 0#32
  /-- ERR is set exactly when ERRCODE is not 0 (60_exceptions.md R250). -/
  err_iff_code : s.status.err = true ↔ s.status.errCode ≠ 0#8
  /-- ERRCODE holds only the values of 60_exceptions.md R252. -/
  code_known : s.status.errCode ∈ errCodes
  /-- ERR speaks of a completed command (10_state.md R24). -/
  err_done : s.status.err = true → s.status.done = true
  /-- While a command is pending, DONE and ERR are 0 (10_state.md R25). -/
  busy_clears : s.busy = true → s.status.done = false ∧ s.status.err = false
  /-- While rst_n is low no command is pending (70_reset_and_hazards.md R280). -/
  reset_idle : s.rstLow = true → s.pending = none

/-- What 10_state.md R39 says of an entry: MODE is 0, 1 or 2, LENGTH is at least 1, and the run lies in DATA_RAM. -/
def SegEntry.legal (p : Params) (e : SegEntry) : Prop :=
  e.mode ≠ 3#2 ∧ 1 ≤ e.length.toNat ∧ e.start.toNat + e.length.toNat ≤ p.dataRamBytes

/-- Every table entry written since reset is legal. -/
def State.TableInv (s : State) : Prop := ∀ e ∈ s.segs, e.legal s.params

/-! ### What a command keeps -/

/-- The parameters, VERSION, LEVEL, ARG0 to ARG3, the reset pin, the port and the draw are as before. -/
structure KeepsSettings (s t : State) : Prop where
  params : t.params = s.params
  version : t.version = s.version
  level : t.level = s.level
  arg0 : t.arg0 = s.arg0
  arg1 : t.arg1 = s.arg1
  arg2 : t.arg2 = s.arg2
  arg3 : t.arg3 = s.arg3
  draws : t.draws = s.draws
  rstLow : t.rstLow = s.rstLow
  hostQueue : t.hostQueue = s.hostQueue
  response : t.response = s.response

/-- Every byte of a RAM reads as before. -/
def KeepsRam (r : Ram) (s t : State) : Prop := ∀ a, t.ramByte r a = s.ramByte r a

/-- Every byte of every RAM reads as before. -/
def KeepsRams (s t : State) : Prop := ∀ r, KeepsRam r s t

/-- Every RAM but `r` reads as before. -/
def KeepsOtherRams (r : Ram) (s t : State) : Prop := ∀ q, q ≠ r → KeepsRam q s t

/-- Every byte of `r` outside `n` bytes at `a` reads as before. -/
def KeepsOutside (r : Ram) (a n : Nat) (s t : State) : Prop :=
  ∀ x, x < a ∨ a + n ≤ x → t.ramByte r x = s.ramByte r x

/-- Both buffers are as before. -/
def KeepsBuffers (s t : State) : Prop := ∀ b, t.bsb b = s.bsb b

/-- The buffer that is not `b` is as before. -/
def KeepsOtherBuffer (b : Buf) (s t : State) : Prop := ∀ c, c ≠ b → t.bsb c = s.bsb c

/-- Every table entry reads as before, and SEG_COUNT is as before. -/
def KeepsTable (s t : State) : Prop := (∀ j, t.segEntry j = s.segEntry j) ∧ t.segCount = s.segCount

/-- RES1 to RES7 are as before. -/
def KeepsRes1to7 (s t : State) : Prop :=
  t.res.res1 = s.res.res1 ∧ t.res.res2 = s.res.res2 ∧ t.res.res3 = s.res.res3 ∧ t.res.res4 = s.res.res4 ∧
  t.res.res5 = s.res.res5 ∧ t.res.res6 = s.res.res6 ∧ t.res.res7 = s.res.res7

/-- The command completed with outcome ok (10_state.md R26): BUSY 0, DONE 1, ERR 0, ERRCODE 0, the sticky bits as before. -/
def Succeeded (s t : State) : Prop :=
  t.pending = none ∧ t.status = ⟨true, false, 0#8, s.status.busErr, s.status.anyErr⟩

/-- The state after a command that raised `e` (60_exceptions.md R254): BUSY 0, DONE 1, ERR 1, ERRCODE code(e), ANYERR 1, and nothing
else changed. -/
def failedState (s : State) (e : CmdError) : State :=
  { s with pending := none, status := ⟨true, true, e.code, s.status.busErr, true⟩ }

/-- Executing `i` raises `e` and changes nothing but STATUS. -/
def FailsWith (e : CmdError) (i : Instr) (s : State) : Prop := exec i s = .next (failedState s e)

/-- The errors a command can raise once decoded (60_exceptions.md R270). -/
def errorsOf : Instr → List CmdError
  | .nop => []
  | .softReset => []
  | .bsbClear _ => []
  | .bsbAppendBit _ _ => [.allocationFailure]
  | .bsbAppendNum _ _ => [.invalidInput, .allocationFailure]
  | .bsbAppendBytes _ => [.badAddress, .allocationFailure]
  | .bsbAppendSeq _ _ => [.allocationFailure]
  | .bsbGetBit _ => [.invalidIndex]
  | .bsbPack _ => [.badAddress]
  | .segSplit _ => [.invalidInput, .badAddress, .allocationFailure]
  | .rsBlock => [.invalidInput, .badAddress]
  | .rsInterleave => [.invalidInput, .badAddress]
  | .fill => [.invalidInput, .badAddress, .frameOverflow]
  | .maskEval _ => [.invalidInput]
  | .maskSelect => [.invalidInput]
  | .maskForce _ => [.invalidInput]

/-- Whether a command is one of the mask engine's. -/
def isMaskCommand : Instr → Bool
  | .nop => false
  | .softReset => false
  | .bsbClear _ => false
  | .bsbAppendBit _ _ => false
  | .bsbAppendNum _ _ => false
  | .bsbAppendBytes _ => false
  | .bsbAppendSeq _ _ => false
  | .bsbGetBit _ => false
  | .bsbPack _ => false
  | .segSplit _ => false
  | .rsBlock => false
  | .rsInterleave => false
  | .fill => false
  | .maskEval _ => true
  | .maskSelect => true
  | .maskForce _ => true

/-! ### Declarative readings -/

/-- A word with opcode `opc` that has a bit set outside the opcode and the bits `used` is illegal (30_encoding.md R77). -/
def UsesOnly (opc : Byte) (used : List Nat) : Prop :=
  ∀ c : Word, c.extractLsb' 0 8 = opc → (∃ i, 8 ≤ i ∧ i < 32 ∧ i ∉ used ∧ c.getLsbD i = true) → decode c = .error .unusedBitSet

/-- The number of a buffer, as a command word has it (30_encoding.md R71). -/
def bufNum : Buf → Nat
  | .bsb0 => 0
  | .bsb1 => 1

/-- A polynomial over GF(256), highest coefficient first, at `x`. -/
def polyEval (cs : List Byte) (x : Byte) : Byte := cs.foldl (fun acc c => gmul acc x ^^^ c) 0#8

/-- The segments cover positions `i` to `len` − 1 in order, each at least one byte long, with no gap (42_segmenter.md R137). -/
def Tiles (len : Nat) : Nat → List Segment → Prop
  | i, [] => i = len
  | i, g :: rest => g.start = i ∧ 1 ≤ g.len ∧ Tiles len (i + g.len) rest

/-- What 42_segmenter.md R137 says of the bytes of a segment. -/
def Segment.matchesBytes (text : List Byte) (g : Segment) : Prop :=
  ∀ c ∈ (text.drop g.start).take g.len,
    match g.mode with
    | .num => classOf c = .num
    | .an => classOf c = .num ∨ classOf c = .an
    | .byte => True

/-- The first `n` positions of the cursor from `c` on, up to where it leaves the grid (44_placer.md R192, R193). -/
def trailFrom (w : Nat) : (n : Nat) → Cursor → List Cursor
  | 0, _ => []
  | n + 1, c => if c.x < 0 then [] else c :: trailFrom w n (c.advance w)

/-- Every position the cursor takes on a grid of width `w`, in order (44_placer.md R196). -/
def trail (w : Nat) : List Cursor := trailFrom w (2 * w * w) (Cursor.start w)

/-- The grid indices of the data modules FILL can reach, in the order it reaches them (44_placer.md R196). -/
def State.freeModules (s : State) : List Nat :=
  ((trail s.gridWidth).map (Cursor.index s.gridWidth)).filter fun i => !isReserved (s.ramByte .frame i)

/-- The data-stream position of byte 0 of block `r` (43_reed_solomon.md R166). -/
def Geometry.blockStart (g : Geometry) (r : Nat) : Nat :=
  if r < g.b1 then r * g.d1 else g.b1 * g.d1 + (r - g.b1) * g.d2

/-- The data length of block `r` (43_reed_solomon.md R166). -/
def Geometry.blockLen (g : Geometry) (r : Nat) : Nat := if r < g.b1 then g.d1 else g.d2

/-- The input text of SEG_SPLIT (42_segmenter.md R140): the bytes of the range, folded when asked. -/
def State.segText (s : State) (f : Bool) : List Byte :=
  (List.range s.arg1.toNat).map fun i =>
    let c := s.ramByte .data (s.arg0.toNat + i)
    if f && decide (0x61 ≤ c.toNat) && decide (c.toNat ≤ 0x7A) then BitVec.ofNat 8 (c.toNat - 0x20) else c

/-- The segments SEG_SPLIT finds (42_segmenter.md R140). -/
def State.segOut (s : State) (f : Bool) : List Segment :=
  split (widthsFor s.params.anResumeLi s.version.toNat) (s.segText f)

/-! ### The bus windows, read from the address map -/

/-- The bus address of byte 0 of a RAM's window (20_memory.md R51). -/
def windowBase : Ram → Nat
  | .data => 0x10000
  | .frame => 0x20000
  | .cand => 0x28000
  | .sym => 0x30000

/-- The size of a RAM's window (20_memory.md R51). -/
def windowSize : Ram → Nat
  | .data => 0x10000
  | .frame => 0x8000
  | .cand => 0x8000
  | .sym => 0x8000

/-- How many bytes of a RAM's window are backed (20_memory.md R51, R53). -/
def backedBytes (p : Params) : Ram → Nat
  | .data => p.dataRamBytes
  | .frame => 32768
  | .cand => 32768
  | .sym => 32768

/-- What a read of `n` bytes at window offset `o` of a RAM returns (20_memory.md R53): `Σ byte[o+i] · 256^i`, an unbacked byte being 0. -/
def State.windowData (s : State) (r : Ram) (o n : Nat) : Word :=
  BitVec.ofNat 32 (((List.range n).map fun i =>
    if o + i < backedBytes s.params r then (s.ramByte r (o + i)).toNat * 256 ^ i else 0).sum)

/-- What an aligned read of `n` bytes at window offset `o` of the segment table returns (10_state.md R39): part of word 0, START, or of
word 1, `{14'b0, MODE, LENGTH}`, of entry `o div 8`. -/
def State.tableData (s : State) (o n : Nat) : Word :=
  let e := s.segEntry (o / 8)
  let word := if o % 8 < 4 then e.start.toNat else e.mode.toNat * 65536 + e.length.toNat
  BitVec.ofNat 32 (word / 256 ^ (o % 4) % 256 ^ n)

/-! ### The segmenter's comparisons, read from the input text -/

/-- Byte `i` of a text is a digit (42_segmenter.md R130: `isNum`). -/
def digitAt (t : List Byte) (i : Nat) : Bool :=
  match t[i]? with
  | none => false
  | some c => decide (0x30 ≤ c.toNat ∧ c.toNat ≤ 0x39)

/-- Byte `i` of a text is one of the 45 Alphanumeric characters (42_segmenter.md R130: `isAn`). -/
def alnumAt (t : List Byte) (i : Nat) : Bool :=
  match t[i]? with
  | none => false
  | some c => decide ((0x30 ≤ c.toNat ∧ c.toNat ≤ 0x39) ∨ (0x41 ≤ c.toNat ∧ c.toNat ≤ 0x5A) ∨
      c.toNat ∈ [0x20, 0x24, 0x25, 0x2A, 0x2B, 0x2D, 0x2E, 0x2F, 0x3A])

/-- Byte `i` of a text is there and is not Alphanumeric (42_segmenter.md R130: `cls(i) = BYTE`). -/
def byteAt (t : List Byte) (i : Nat) : Bool := decide (i < t.length) && !alnumAt t i

/-- `q <- p ; while P(q): q <- q + 1` ends at `q`. -/
def RunTo (P : Nat → Bool) (p q : Nat) : Prop := p ≤ q ∧ (∀ j, p ≤ j → j < q → P j = true) ∧ P q = false

/-- Bits of `n` digits (42_segmenter.md R132). -/
def numericBits (n : Nat) : Nat := 10 * (n / 3) + (if n % 3 = 0 then 0 else if n % 3 = 1 then 4 else 7)

/-- Bits of `n` Alphanumeric characters (42_segmenter.md R132). -/
def alnumBits (n : Nat) : Nat := 11 * (n / 2) + 6 * (n % 2)

/-- The loop of absorb-byte from position `p`, for a run from `st`, ends at `e` (42_segmenter.md R135). -/
inductive ByteLoop (w : Widths) (t : List Byte) (st : Nat) : Nat → Nat → Prop where
  | atEnd {p} : t.length ≤ p → ByteLoop w t st p p
  | digitsCheaper {p q} : digitAt t p = true → RunTo (digitAt t) p q →
      8 * (p - st) + numericBits (q - p) + 4 + w.ln + (if byteAt t q then 4 + w.l8 else 0) < 8 * (q - st) → ByteLoop w t st p p
  | digitsKept {p q e} : digitAt t p = true → RunTo (digitAt t) p q →
      8 * (q - st) ≤ 8 * (p - st) + numericBits (q - p) + 4 + w.ln + (if byteAt t q then 4 + w.l8 else 0) →
      ByteLoop w t st q e → ByteLoop w t st p e
  | alnumCheaper {p q} : alnumAt t p = true → digitAt t p = false → RunTo (alnumAt t) p q →
      8 * (p - st) + alnumBits (q - p) + 4 + w.la + (if byteAt t q then 4 + w.l8 else 0) < 8 * (q - st) → ByteLoop w t st p p
  | alnumKept {p q e} : alnumAt t p = true → digitAt t p = false → RunTo (alnumAt t) p q →
      8 * (q - st) ≤ 8 * (p - st) + alnumBits (q - p) + 4 + w.la + (if byteAt t q then 4 + w.l8 else 0) →
      ByteLoop w t st q e → ByteLoop w t st p e
  | byteTaken {p e} : byteAt t p = true → ByteLoop w t st (p + 1) e → ByteLoop w t st p e

/-- The loop of absorb-alphanumeric from position `p`, for a run from `st`, ends at `e` (42_segmenter.md R134). -/
inductive AlnumLoop (w : Widths) (t : List Byte) (st : Nat) : Nat → Nat → Prop where
  | atEnd {p} : alnumAt t p = false → AlnumLoop w t st p p
  | digitsCheaper {p q} : digitAt t p = true → RunTo (digitAt t) p q →
      alnumBits (p - st) + numericBits (q - p) + 4 + w.ln + (if alnumAt t q then 4 + w.resume else 0) < alnumBits (q - st) →
      AlnumLoop w t st p p
  | digitsKept {p q e} : digitAt t p = true → RunTo (digitAt t) p q →
      alnumBits (q - st) ≤ alnumBits (p - st) + numericBits (q - p) + 4 + w.ln + (if alnumAt t q then 4 + w.resume else 0) →
      AlnumLoop w t st q e → AlnumLoop w t st p e
  | letterTaken {p e} : alnumAt t p = true → digitAt t p = false → AlnumLoop w t st (p + 1) e → AlnumLoop w t st p e

/-- absorb-byte from `st` takes `n` bytes (42_segmenter.md R135). -/
def AbsorbsByte (w : Widths) (t : List Byte) (st n : Nat) : Prop := ByteLoop w t st (st + 1) (st + n)

/-- absorb-alphanumeric from `st` emits mode `m` and takes `n` bytes (42_segmenter.md R134). -/
inductive AbsorbsAlnum (w : Widths) (t : List Byte) (st : Nat) : SegMode → Nat → Prop where
  | toByte {run n} : AlnumLoop w t st st (st + run) → byteAt t (st + run) = true →
      8 * (run + 1) < alnumBits run + 4 + w.la + 8 → AbsorbsByte w t st n → AbsorbsAlnum w t st .byte n
  | stays {run} : AlnumLoop w t st st (st + run) →
      (byteAt t (st + run) = true → alnumBits run + 4 + w.la + 8 ≤ 8 * (run + 1)) → AbsorbsAlnum w t st .an run

/-- absorb-numeric from `st` emits mode `m` and takes `n` bytes (42_segmenter.md R133). -/
inductive AbsorbsNumeric (w : Widths) (t : List Byte) (st : Nat) : SegMode → Nat → Prop where
  | toByte {run n} : RunTo (digitAt t) st (st + run) → byteAt t (st + run) = true →
      8 * (run + 1) < numericBits run + 4 + w.ln + 8 → AbsorbsByte w t st n → AbsorbsNumeric w t st .byte n
  | toAlnum {run m n} : RunTo (digitAt t) st (st + run) → alnumAt t (st + run) = true →
      alnumBits (run + 1) < numericBits run + 4 + w.ln + 6 → AbsorbsAlnum w t st m n → AbsorbsNumeric w t st m n
  | stays {run} : RunTo (digitAt t) st (st + run) →
      (byteAt t (st + run) = true → numericBits run + 4 + w.ln + 8 ≤ 8 * (run + 1)) →
      (alnumAt t (st + run) = true → numericBits run + 4 + w.ln + 6 ≤ alnumBits (run + 1)) → AbsorbsNumeric w t st .num run

/-- The scan from position `i` emits these segments (42_segmenter.md R136): the class of the byte at `i` selects the absorb. -/
inductive ScanEmits (w : Widths) (t : List Byte) : Nat → List Segment → Prop where
  | atEnd {i} : t.length ≤ i → ScanEmits w t i []
  | numeric {i m n rest} : digitAt t i = true → AbsorbsNumeric w t i m n → ScanEmits w t (i + n) rest →
      ScanEmits w t i (⟨m, i, n⟩ :: rest)
  | alnum {i m n rest} : alnumAt t i = true → digitAt t i = false → AbsorbsAlnum w t i m n → ScanEmits w t (i + n) rest →
      ScanEmits w t i (⟨m, i, n⟩ :: rest)
  | byte {i n rest} : byteAt t i = true → AbsorbsByte w t i n → ScanEmits w t (i + n) rest →
      ScanEmits w t i (⟨.byte, i, n⟩ :: rest)

/-! ### The demerits, read from the colours of a grid -/

/-- The line that a run list stands for, its first run having colour `c` (45_mask.md R218). -/
def expandRuns (c : Bool) : List Int → List Bool
  | [] => []
  | n :: rest => List.replicate n.toNat c ++ expandRuns (!c) rest

/-- `r` is the run list of a line (45_mask.md R218): light run first, each run maximal and at least 1 long, but for the placeholder -1 when the
line starts dark. -/
def RunListOf (line : List Bool) (r : List Int) : Prop :=
  expandRuns false r = line ∧
  (line.head? = some false → ∀ n ∈ r, 1 ≤ n) ∧
  (line.head? = some true → ∃ rest, r = -1 :: rest ∧ ∀ n ∈ rest, 1 ≤ n)

/-- N1 of a run list (45_mask.md R219): `3 + (n - 5)` for each run of 5 or more. -/
def runsN1 (r : List Int) : Nat := ((r.filter fun n => decide (5 ≤ n)).map fun n => n.toNat - 2).sum

/-- Run `i` is the centre of a finder-like pattern that counts (45_mask.md R221). -/
def finderCentre (r : List Int) (i : Nat) : Bool :=
  let f := r.getD i 0 / 3
  decide (i % 2 = 1 ∧ 3 ≤ i ∧ i + 2 < r.length ∧
    r.getD (i - 2) 0 = f ∧ r.getD (i - 1) 0 = f ∧ r.getD i 0 = 3 * f ∧ r.getD (i + 1) 0 = f ∧ r.getD (i + 2) 0 = f ∧
    (i = 3 ∨ 4 * f ≤ r.getD (i - 3) 0 ∨ r.length ≤ i + 4 ∨ 4 * f ≤ r.getD (i + 3) 0))

/-- N3 of a run list (45_mask.md R221): 40 for each such pattern. -/
def runsN3 (r : List Int) : Nat := 40 * (List.range r.length).countP (finderCentre r)

/-- The sum of a score over the run lists of the rows and the columns of a grid of width `w` with colours `dark` (45_mask.md section 3). -/
def lineSum (w : Nat) (dark : Nat → Nat → Bool) (score : List Int → Nat) : Nat :=
  ((List.range w).map fun y => score (runs ((List.range w).map fun x => dark x y))).sum +
  ((List.range w).map fun x => score (runs ((List.range w).map fun y => dark x y))).sum

/-- The percentage of N4 (45_mask.md R222), `dark` of `area` modules being dark. -/
def percentDark (m : N4Rounding) (dark area : Nat) : Nat :=
  match m with
  | .round => (200 * dark + area) / (2 * area)
  | .truncate => 100 * dark / area

/-- What 45_mask.md R219 to R222 say of a grid of width `w` with colours `dark`. -/
structure ScoredAs (m : N4Rounding) (w : Nat) (dark : Nat → Nat → Bool) (d : Demerits) : Prop where
  /-- R219, over every row and column. -/
  n1 : d.n1 = lineSum w dark runsN1
  /-- R220: 3 for each 2×2 block of one colour, by its lower right module. -/
  n2 : d.n2 = 3 * ((List.range w).map fun y => (List.range w).countP fun x =>
    decide (1 ≤ x ∧ 1 ≤ y ∧ dark (x - 1) y = dark x y ∧ dark x (y - 1) = dark x y ∧ dark (x - 1) (y - 1) = dark x y)).sum
  /-- R221, over every row and column. -/
  n3 : d.n3 = lineSum w dark runsN3
  /-- R222: the dark modules. -/
  darkCount : d.dark = ((List.range w).map fun y => (List.range w).countP fun x => dark x y).sum
  /-- R222: ten times the fifths of the distance of the percentage from 50. -/
  n4 : d.n4 = 10 * (((percentDark m d.dark (w * w) - 50) + (50 - percentDark m d.dark (w * w))) / 5)

end Sys2Proof.Machine
end

