-- ==== Sys2Proof/Certificates/Slice0/Obligations.lean ====
section
/-! DEFINITION. The statements for the provers, from the numbered rules of spec/. The declarative readings and the "keeps" predicates they use are in Sys2Proof/Safety.lean. -/

open Sys2Proof Sys2Proof.Machine

/-! ### Encoding and decoding -/

/-- 30_encoding.md R71, R72, R75: the word of every well-formed command decodes to it, every operand included. -/
def Obligations.DecodeOfEncode : Prop :=
  ∀ i : Instr, i.wellFormed = true → decode (encode i) = .ok i

/-- 30_encoding.md R74, R77: a word that decodes is the one word of its command, and the command is well formed. -/
def Obligations.EncodeOfDecode : Prop :=
  ∀ (c : Word) (i : Instr), decode c = .ok i → encode i = c ∧ i.wellFormed = true

/-- 30_encoding.md R74: a word decodes to the command of the row that accepts it, and at most one row does. -/
def Obligations.AtMostOneRowAccepts : Prop :=
  ∀ c : Word,
    (opcodeTable.Pairwise fun r q => ¬ (r.accepts c = true ∧ q.accepts c = true)) ∧
    (∀ i, decode c = .ok i ↔ ∃ r ∈ opcodeTable, c &&& r.mask = r.value ∧ i = r.build c) ∧
    ((∃ e, decode c = .error e) ↔ ∀ r ∈ opcodeTable, c &&& r.mask ≠ r.value)

/-- 30_encoding.md R77: the illegal words are those with an opcode outside the table and those with a bit set that the opcode does not
use; running one raises IllegalCommand with no other effect. N above 32 is no illegal encoding but InvalidInput. -/
def Obligations.IllegalWordsRaiseIllegalCommand : Prop :=
  let used : List (Nat × List Nat) :=
    [(0x00, []), (0x01, []), (0x10, [8]), (0x11, [8, 13]), (0x12, [8, 16, 17, 18, 19, 20, 21]), (0x13, [8]), (0x14, [8, 9]),
     (0x15, [8]), (0x16, [8]), (0x20, [13]), (0x30, []), (0x31, []), (0x40, []), (0x50, [10, 11, 12]), (0x51, []), (0x52, [10, 11, 12])]
  (∀ c : Word, decode c = .error .unassignedOpcode ↔ ∀ p ∈ used, c.toNat % 256 ≠ p.1) ∧
  (∀ c : Word, decode c = .error .unusedBitSet ↔
    ∃ p ∈ used, c.toNat % 256 = p.1 ∧ ∃ i, 8 ≤ i ∧ i < 32 ∧ i ∉ p.2 ∧ c.getLsbD i = true) ∧
  (∀ (s : State) (c : Word) (e : IllegalEncoding), s.pending = some c → s.hostFirst = false → decode c = .error e →
    step s = .next (failedState s .illegalCommand)) ∧
  (∀ (b : Buf) (n : Nat) (s : State), 32 < n → FailsWith .invalidInput (.bsbAppendNum b n) s)

/-- 95_test_vectors.md section 2.1: words written out from the encodings decode to their commands and fields. -/
def Obligations.SampleWordsDecode : Prop :=
  decode 0x00002011#32 = .ok (.bsbAppendBit .bsb0 true) ∧ decode 0x00000111#32 = .ok (.bsbAppendBit .bsb1 false) ∧
  decode 0x00200012#32 = .ok (.bsbAppendNum .bsb0 32) ∧ decode 0x003F0112#32 = .ok (.bsbAppendNum .bsb1 63) ∧
  decode 0x00000314#32 = .ok (.bsbAppendSeq .bsb1 .bsb1) ∧ decode 0x00000214#32 = .ok (.bsbAppendSeq .bsb0 .bsb1) ∧
  decode 0x00002020#32 = .ok (.segSplit true) ∧ decode 0x00001C50#32 = .ok (.maskEval 7) ∧
  decode 0x00001452#32 = .ok (.maskForce 5) ∧ decode 0x00000C52#32 = .ok (.maskForce 3)

/-! ### The step -/

/-- 40_control.md R90: while a command is pending and the outside's next action does not come first, the step is the execution of the
decoded command. -/
def Obligations.StepExecutesPendingCommand : Prop :=
  ∀ (s : State) (c : Word) (i : Instr), s.pending = some c → s.hostFirst = false → decode c = .ok i → step s = exec i s

/-- 20_memory.md R63, 60_exceptions.md R269: with no command pending the step performs the outside's next action, and with none the
block holds its state. -/
def Obligations.IdleStepServesTheHost : Prop :=
  ∀ s : State, s.pending = none →
    (s.hostQueue = [] → step s = .next s) ∧
    (∀ ev rest, s.hostQueue = ev :: rest → step s = .next ({ s with hostQueue := rest }.hostAct ev.action))

/-- 10_state.md R25: a 32-bit write of `v` to CMD while BUSY = 0 latches it and clears DONE, ERR and ERRCODE, the sticky bits kept;
while BUSY = 1 every host access but a 32-bit STATUS read is held: it stays in the queue and the command completes. A reset is no
access (70_reset_and_hazards.md R280); whether a STATUS read comes before the completion is the outside's choice (log entry 4). -/
def Obligations.CmdWriteIssuesAndBusyHolds : Prop :=
  (∀ (s : State) (v : Word) (early : Bool) (rest : List HostEvent), s.pending = none → s.rstLow = false →
    s.hostQueue = ⟨.write 0x00004#18 .word v, early⟩ :: rest →
    step s = .next { s with
      pending := some v, status := ⟨false, false, 0#8, s.status.busErr, s.status.anyErr⟩,
      hostQueue := rest, response := some (.writeReply false) }) ∧
  (∀ (s : State) (c : Word) (ev : HostEvent) (rest : List HostEvent), s.pending = some c → s.hostQueue = ev :: rest →
    ev.action ≠ .read 0x00008#18 .word → ev.action ≠ .assertReset →
    ∃ t, step s = .next t ∧ t.pending = none ∧ t.status.done = true ∧ t.hostQueue = ev :: rest ∧ t.response = s.response)

/-- 10_state.md R24, R25, R40: a 32-bit STATUS read that comes while a command is pending returns BUSY = 1 and disturbs nothing. -/
def Obligations.StatusReadSeesBusy : Prop :=
  ∀ (s : State) (c : Word) (rest : List HostEvent), s.pending = some c → s.rstLow = false →
    s.hostQueue = ⟨.read 0x00008#18 .word, true⟩ :: rest →
    ∃ w, step s = .next { s with hostQueue := rest, response := some (.readReply w false) } ∧ w.getLsbD 0 = true

/-- 10_state.md R24: the bits of the word a STATUS read returns. -/
def Obligations.StatusWordLayout : Prop :=
  ∀ s : State,
    s.readRegister 0x008 = s.statusWord ∧
    s.statusWord.getLsbD 0 = s.pending.isSome ∧ s.statusWord.getLsbD 1 = s.status.done ∧ s.statusWord.getLsbD 2 = s.status.err ∧
    (∀ i, 3 ≤ i → i ≤ 7 → s.statusWord.getLsbD i = false) ∧ s.statusWord.extractLsb' 8 8 = s.status.errCode ∧
    s.statusWord.getLsbD 16 = s.status.busErr ∧ s.statusWord.getLsbD 17 = s.status.anyErr ∧
    (∀ i, 18 ≤ i → s.statusWord.getLsbD i = false)

/-- 93_implementation_defined.md section 1, 70_reset_and_hazards.md R284 and R295: no state stops the machine. -/
def Obligations.MachineNeverStops : Prop :=
  ∀ s : State, ∃ t, step s = .next t

/-- Every step keeps the invariant `State.Inv` of the block, from every state that has it. -/
def Obligations.StepKeepsInvariant : Prop :=
  ∀ s t : State, s.Inv → step s = .next t → t.Inv

/-- 10_state.md R43: every legal implementation's reset state has the invariant, whatever is drawn and whatever the outside does next. -/
def Obligations.ResetHasInvariant : Prop :=
  ∀ (p : Params) (draw : Nat) (queue : List HostEvent), p.legal →
    (State.resetWith p draw queue).Inv ∧ (State.resetWith p draw queue).TableInv

/-- 10_state.md R39: every step keeps the written table entries legal: MODE 0 to 2, LENGTH at least 1, the run inside DATA_RAM. -/
def Obligations.StepKeepsTableLegal : Prop :=
  ∀ s t : State, s.Inv → s.TableInv → step s = .next t → t.TableInv

/-- 10_state.md R31: no step changes the implementation's constants. -/
def Obligations.StepKeepsParameters : Prop :=
  ∀ s t : State, step s = .next t → t.params = s.params

/-! ### Rules over all commands -/

/-- 10_state.md R26, 60_exceptions.md R250 and R254: every command completes; it ends with ERR = 0 and ERRCODE = 0, or with one error
recorded, a non-zero code, and nothing but STATUS changed. -/
def Obligations.EveryCommandCompletes : Prop :=
  ∀ (i : Instr) (s : State), ∃ t, exec i s = .next t ∧ t.pending = none ∧ t.status.done = true ∧
    ((t.status.err = false ∧ t.status.errCode = 0#8) ∨
     (∃ e : CmdError, e.code ≠ 0#8 ∧
       t = { s with pending := none, status := ⟨true, true, e.code, s.status.busErr, true⟩ }))

/-- 60_exceptions.md R252, R270: a command that decodes raises only the errors of its row; CapacityExceeded and TooManySymbols are in no row. -/
def Obligations.CommandsRaiseOnlyTheirErrors : Prop :=
  ∀ (i : Instr) (s t : State), exec i s = .next t → t.status.err = true →
    ∃ e ∈ errorsOf i, t = failedState s e ∧ e ≠ .capacityExceeded ∧ e ≠ .tooManySymbols

/-- 60_exceptions.md R256: a command that failed, issued again on the same state, fails the same way. -/
def Obligations.FailedCommandFailsAgain : Prop :=
  ∀ (i : Instr) (s t : State), exec i s = .next t → t.status.err = true → exec i t = .next t

/-- 10_state.md R41: "No command reads STATUS": what a command does, and the outcome it records, is the same whatever STATUS held. -/
def Obligations.NoCommandReadsStatus : Prop :=
  ∀ (i : Instr) (s t : State) (f : Status), exec i s = .next t →
    ∃ t', exec i { s with status := f } = .next t' ∧ { t' with status := t.status } = t ∧
      t'.status.done = t.status.done ∧ t'.status.err = t.status.err ∧ t'.status.errCode = t.status.errCode

/-- 10_state.md R29: only the mask engine reads LEVEL; every other command but SOFT_RESET, which writes it, does the same under any LEVEL. -/
def Obligations.OnlyMaskCommandsReadLevel : Prop :=
  ∀ (i : Instr) (s t : State) (l : BitVec 2), isMaskCommand i = false → i ≠ .softReset → exec i s = .next t →
    exec i { s with level := l } = .next { t with level := l }

/-- 10_state.md R21, R30 and 40_control.md R92: no command but SOFT_RESET writes VERSION, LEVEL or an ARG register, and none touches the
port, the reset pin or the parameters. -/
def Obligations.CommandsKeepHostRegisters : Prop :=
  ∀ (i : Instr) (s t : State), i ≠ .softReset → exec i s = .next t → KeepsSettings s t

/-! ### Control commands -/

/-- 40_control.md R91: NOP completes and changes nothing else. -/
def Obligations.NopChangesOnlyStatus : Prop :=
  decode 0x00000000#32 = .ok .nop ∧
  UsesOnly 0x00#8 [] ∧
  ∀ s : State, exec .nop s =
    .next { s with pending := none, status := ⟨true, false, 0#8, s.status.busErr, s.status.anyErr⟩ }

/-- 40_control.md R92: SOFT_RESET returns every register and buffer to its reset value and keeps the RAMs and the table entries; STATUS
then reads 0x00000002. -/
def Obligations.SoftResetRestoresRegisters : Prop :=
  decode 0x00000001#32 = .ok .softReset ∧
  UsesOnly 0x01#8 [] ∧
  ∀ s : State, ∃ t, exec .softReset s = .next t ∧
    t.version = 0#6 ∧ t.level = 0#2 ∧ t.arg0 = 0#32 ∧ t.arg1 = 0#32 ∧ t.arg2 = 0#32 ∧ t.arg3 = 0#32 ∧
    t.res = ⟨0#32, 0#32, 0#32, 0#32, 0#32, 0#32, 0#32, 0#32⟩ ∧
    t.bsb0 = [] ∧ t.bsb1 = [] ∧ t.segCount = 0#32 ∧
    t.pending = none ∧ t.status = ⟨true, false, 0#8, false, false⟩ ∧ t.readRegister 0x008 = 0x00000002#32 ∧
    (∀ j, t.segEntry j = s.segEntry j) ∧ KeepsRams s t ∧
    t.params = s.params ∧ t.draws = s.draws ∧ t.rstLow = s.rstLow ∧ t.hostQueue = s.hostQueue ∧ t.response = s.response

/-! ### Bit-sequence buffer commands -/

/-- 41_bitseq.md R102: BSB_CLEAR empties its buffer and nothing else. -/
def Obligations.ClearEmptiesOneBuffer : Prop :=
  (∀ b, decode (BitVec.ofNat 32 (0x10 + 256 * bufNum b)) = .ok (.bsbClear b)) ∧
  UsesOnly 0x10#8 [8] ∧
  ∀ (b : Buf) (s : State), ∃ t, exec (.bsbClear b) s = .next t ∧ t.bsb b = [] ∧
    KeepsOtherBuffer b s t ∧ Succeeded s t ∧ KeepsSettings s t ∧ t.res = s.res ∧ KeepsTable s t ∧ KeepsRams s t

/-- 41_bitseq.md R101, R103: BSB_APPEND_BIT appends its bit, or raises AllocationFailure on a full buffer. -/
def Obligations.AppendBitAppendsOneBit : Prop :=
  (∀ b (f : Bool), decode (BitVec.ofNat 32 (0x11 + 256 * bufNum b + 8192 * f.toNat)) = .ok (.bsbAppendBit b f)) ∧
  UsesOnly 0x11#8 [8, 13] ∧
  ∀ (b : Buf) (f : Bool) (s : State),
    ((s.bsb b).length + 1 ≤ s.params.bsbCapBits →
      ∃ t, exec (.bsbAppendBit b f) s = .next t ∧ t.bsb b = s.bsb b ++ [f] ∧
        KeepsOtherBuffer b s t ∧ Succeeded s t ∧ KeepsSettings s t ∧ t.res = s.res ∧ KeepsTable s t ∧ KeepsRams s t) ∧
    (s.params.bsbCapBits < (s.bsb b).length + 1 → FailsWith .allocationFailure (.bsbAppendBit b f) s)

/-- 41_bitseq.md R101, R104: BSB_APPEND_NUM appends the low N bits of ARG0, most significant first; N above 32 is InvalidInput, else past
the capacity AllocationFailure. -/
def Obligations.AppendNumAppendsLowBits : Prop :=
  (∀ b n, n < 64 → decode (BitVec.ofNat 32 (0x12 + 256 * bufNum b + 65536 * n)) = .ok (.bsbAppendNum b n)) ∧
  UsesOnly 0x12#8 [8, 16, 17, 18, 19, 20, 21] ∧
  ∀ (b : Buf) (n : Nat) (s : State),
    (n ≤ 32 → (s.bsb b).length + n ≤ s.params.bsbCapBits →
      ∃ t, exec (.bsbAppendNum b n) s = .next t ∧
        t.bsb b = s.bsb b ++ (List.range n).map (fun j => s.arg0.getLsbD (n - 1 - j)) ∧
        KeepsOtherBuffer b s t ∧ Succeeded s t ∧ KeepsSettings s t ∧ t.res = s.res ∧ KeepsTable s t ∧ KeepsRams s t) ∧
    (32 < n → FailsWith .invalidInput (.bsbAppendNum b n) s) ∧
    (n ≤ 32 → s.params.bsbCapBits < (s.bsb b).length + n → FailsWith .allocationFailure (.bsbAppendNum b n) s)

/-- 41_bitseq.md R101, R105: BSB_APPEND_BYTES appends ARG1 bytes of DATA_RAM from ARG0, each most significant bit first; an illegal range
is BadAddress, else past the capacity AllocationFailure. -/
def Obligations.AppendBytesAppendsDataBits : Prop :=
  (∀ b, decode (BitVec.ofNat 32 (0x13 + 256 * bufNum b)) = .ok (.bsbAppendBytes b)) ∧
  UsesOnly 0x13#8 [8] ∧
  ∀ (b : Buf) (s : State),
    (s.arg0.toNat + s.arg1.toNat ≤ s.params.dataRamBytes → (s.bsb b).length + 8 * s.arg1.toNat ≤ s.params.bsbCapBits →
      ∃ t, exec (.bsbAppendBytes b) s = .next t ∧
        t.bsb b = s.bsb b ++ (List.range s.arg1.toNat).flatMap (fun j =>
          (List.range 8).map fun k => (s.ramByte .data (s.arg0.toNat + j)).getLsbD (7 - k)) ∧
        KeepsOtherBuffer b s t ∧ Succeeded s t ∧ KeepsSettings s t ∧ t.res = s.res ∧ KeepsTable s t ∧ KeepsRams s t) ∧
    (s.params.dataRamBytes < s.arg0.toNat + s.arg1.toNat → FailsWith .badAddress (.bsbAppendBytes b) s) ∧
    (s.arg0.toNat + s.arg1.toNat ≤ s.params.dataRamBytes → s.params.bsbCapBits < (s.bsb b).length + 8 * s.arg1.toNat →
      FailsWith .allocationFailure (.bsbAppendBytes b) s)

/-- 41_bitseq.md R101, R106: BSB_APPEND_SEQ appends the source buffer's bits as they were, so source = destination doubles it. -/
def Obligations.AppendSeqAppendsOtherBuffer : Prop :=
  (∀ b src, decode (BitVec.ofNat 32 (0x14 + 256 * bufNum b + 512 * bufNum src)) = .ok (.bsbAppendSeq b src)) ∧
  UsesOnly 0x14#8 [8, 9] ∧
  ∀ (b src : Buf) (s : State),
    ((s.bsb b).length + (s.bsb src).length ≤ s.params.bsbCapBits →
      ∃ t, exec (.bsbAppendSeq b src) s = .next t ∧ t.bsb b = s.bsb b ++ s.bsb src ∧
        KeepsOtherBuffer b s t ∧ Succeeded s t ∧ KeepsSettings s t ∧ t.res = s.res ∧ KeepsTable s t ∧ KeepsRams s t) ∧
    (s.params.bsbCapBits < (s.bsb b).length + (s.bsb src).length → FailsWith .allocationFailure (.bsbAppendSeq b src) s)

/-- 41_bitseq.md R107: BSB_GET_BIT puts bit ARG0 of its buffer in RES0; an index at or past the size is InvalidIndex. -/
def Obligations.GetBitReadsIndexedBit : Prop :=
  (∀ b, decode (BitVec.ofNat 32 (0x15 + 256 * bufNum b)) = .ok (.bsbGetBit b)) ∧
  UsesOnly 0x15#8 [8] ∧
  ∀ (b : Buf) (s : State),
    (∀ v, (s.bsb b)[s.arg0.toNat]? = some v →
      ∃ t, exec (.bsbGetBit b) s = .next t ∧ t.res.res0 = (if v then 1#32 else 0#32) ∧ KeepsRes1to7 s t ∧
        KeepsBuffers s t ∧ Succeeded s t ∧ KeepsSettings s t ∧ KeepsTable s t ∧ KeepsRams s t) ∧
    ((s.bsb b).length ≤ s.arg0.toNat → FailsWith .invalidIndex (.bsbGetBit b) s)

/-- 41_bitseq.md R108: BSB_PACK writes the buffer to DATA_RAM at ARG0, first bit in bit 7 of the first byte, zero-padded, and its byte
count to RES0; an illegal range is BadAddress. -/
def Obligations.PackWritesBufferBytes : Prop :=
  (∀ b, decode (BitVec.ofNat 32 (0x16 + 256 * bufNum b)) = .ok (.bsbPack b)) ∧
  UsesOnly 0x16#8 [8] ∧
  ∀ (b : Buf) (s : State),
    (s.arg0.toNat + ((s.bsb b).length + 7) / 8 ≤ s.params.dataRamBytes →
      ∃ t, exec (.bsbPack b) s = .next t ∧
        (∀ j, j < ((s.bsb b).length + 7) / 8 → ∀ k, k < 8 →
          (t.ramByte .data (s.arg0.toNat + j)).getLsbD (7 - k) = (s.bsb b).getD (8 * j + k) false) ∧
        KeepsOutside .data s.arg0.toNat (((s.bsb b).length + 7) / 8) s t ∧ KeepsOtherRams .data s t ∧
        t.res.res0 = BitVec.ofNat 32 (((s.bsb b).length + 7) / 8) ∧ KeepsRes1to7 s t ∧
        KeepsBuffers s t ∧ Succeeded s t ∧ KeepsSettings s t ∧ KeepsTable s t) ∧
    (s.params.dataRamBytes < s.arg0.toNat + ((s.bsb b).length + 7) / 8 → FailsWith .badAddress (.bsbPack b) s)

/-- 41_bitseq.md R109: BSB_PACK, then (with ARG1 set to its byte count) BSB_APPEND_BYTES into an empty buffer reproduces the buffer, padded
with zeros to a multiple of 8. -/
def Obligations.PackThenAppendReproducesBuffer : Prop :=
  ∀ (b c : Buf) (s : State), c ≠ b → s.bsb c = [] →
    s.arg0.toNat + ((s.bsb b).length + 7) / 8 ≤ s.params.dataRamBytes → s.params.dataRamBytes ≤ 65536 →
    8 * (((s.bsb b).length + 7) / 8) ≤ s.params.bsbCapBits →
    ∃ t u, exec (.bsbPack b) s = .next t ∧ exec (.bsbAppendBytes c) { t with arg1 := t.res.res0 } = .next u ∧
      u.bsb c = s.bsb b ++ List.replicate (8 * (((s.bsb b).length + 7) / 8) - (s.bsb b).length) false ∧ u.bsb b = s.bsb b

/-! ### Segmenter -/

/-- 42_segmenter.md R137: the segments are in input order, each of length at least 1, and cover the input exactly once; there are at most
L of them. -/
def Obligations.SplitTilesTheInput : Prop :=
  ∀ (x : AnResumeLi) (v : Nat) (text : List Byte),
    Tiles text.length 0 (split (widthsFor x v) text) ∧ (split (widthsFor x v) text).length ≤ text.length

/-- 42_segmenter.md R137: a Numeric segment holds only NUM bytes, an Alphanumeric one only NUM or AN bytes. -/
def Obligations.SegmentsHoldTheirClass : Prop :=
  ∀ (x : AnResumeLi) (v : Nat) (text : List Byte), ∀ g ∈ split (widthsFor x v) text, g.matchesBytes text

/-- 42_segmenter.md R141: the worked tie. "AA", thirteen '1', "B" at version 1 is one segment when resuming is charged `ln`, three when it is
charged `la`. -/
def Obligations.TieKeepsDigitsInAlphanumeric : Prop :=
  let text : List Byte := [0x41#8, 0x41#8] ++ List.replicate 13 0x31#8 ++ [0x42#8]
  split (widthsFor .ln 1) text = [⟨.an, 0, 16⟩] ∧
  split (widthsFor .la 1) text = [⟨.an, 0, 2⟩, ⟨.num, 2, 13⟩, ⟨.an, 15, 1⟩]

/-- 42_segmenter.md R138, R140, 10_state.md R39: SEG_SPLIT writes the segments of its (folded) input to the table, MODE 0 for Numeric, 1 for
Alphanumeric and 2 for Byte, their number to SEG_COUNT and RES0, and,
when folding, the folded bytes over the input; nothing else. -/
def Obligations.SegSplitWritesTable : Prop :=
  (∀ f : Bool, decode (BitVec.ofNat 32 (0x20 + 8192 * f.toNat)) = .ok (.segSplit f)) ∧
  UsesOnly 0x20#8 [13] ∧
  ∀ (f : Bool) (s : State), 1 ≤ s.arg1.toNat → s.arg1.toNat ≤ 65535 → s.version.toNat ≤ 40 →
    s.arg0.toNat + s.arg1.toNat ≤ s.params.dataRamBytes → (s.segOut f).length ≤ s.params.nsegMax →
    ∃ t, exec (.segSplit f) s = .next t ∧
      (∀ j g, (s.segOut f)[j]? = some g →
        t.segEntry j = ⟨match g.mode with | .num => 0#2 | .an => 1#2 | .byte => 2#2, BitVec.ofNat 16 (s.arg0.toNat + g.start), BitVec.ofNat 16 g.len⟩) ∧
      (∀ j, (s.segOut f).length ≤ j → t.segEntry j = s.segEntry j) ∧
      t.segCount = BitVec.ofNat 32 (s.segOut f).length ∧ t.res.res0 = BitVec.ofNat 32 (s.segOut f).length ∧ KeepsRes1to7 s t ∧
      (f = true → ∀ i, i < s.arg1.toNat → some (t.ramByte .data (s.arg0.toNat + i)) = (s.segText true)[i]?) ∧
      (f = false → KeepsRam .data s t) ∧
      KeepsOutside .data s.arg0.toNat s.arg1.toNat s t ∧ KeepsOtherRams .data s t ∧
      KeepsBuffers s t ∧ Succeeded s t ∧ KeepsSettings s t

/-- 42_segmenter.md R140, 60_exceptions.md R253: where SEG_SPLIT fails, and with which error. -/
def Obligations.SegSplitErrors : Prop :=
  ∀ (f : Bool) (s : State),
    (s.arg1.toNat = 0 ∨ 65535 < s.arg1.toNat ∨ 40 < s.version.toNat → FailsWith .invalidInput (.segSplit f) s) ∧
    (1 ≤ s.arg1.toNat → s.arg1.toNat ≤ 65535 → s.version.toNat ≤ 40 →
      (s.params.dataRamBytes < s.arg0.toNat + s.arg1.toNat → FailsWith .badAddress (.segSplit f) s) ∧
      (s.arg0.toNat + s.arg1.toNat ≤ s.params.dataRamBytes → s.params.nsegMax < (s.segOut f).length →
        FailsWith .allocationFailure (.segSplit f) s))

/-! ### Reed-Solomon -/

/-- 43_reed_solomon.md R160: `⊗` with XOR is a commutative field on bytes, and α = 0x02 generates its non-zero elements. -/
def Obligations.FieldLaws : Prop :=
  (∀ a b : Byte, gmul a b = gmul b a) ∧ (∀ a b c : Byte, gmul (gmul a b) c = gmul a (gmul b c)) ∧
  (∀ a b c : Byte, gmul a (b ^^^ c) = gmul a b ^^^ gmul a c) ∧ (∀ a : Byte, gmul a 0x01#8 = a) ∧
  gmul 0x80#8 0x02#8 = 0x1D#8 ∧ alphaPow 255 = 0x01#8 ∧
  (∀ a : Byte, a ≠ 0#8 → ∃ i, i < 255 ∧ alphaPow i = a ∧ ∀ j, j < 255 → alphaPow j = a → j = i)

/-- 43_reed_solomon.md R162, R164: the parity has exactly n bytes, and data followed by parity is zero at α^0 to α^(n-1). -/
def Obligations.ParityMakesValidCodeword : Prop :=
  ∀ (d : List Byte) (n : Nat), (rsParity d n).length = n ∧
    ∀ i, i < n → polyEval (d ++ rsParity d n) (alphaPow i) = 0#8

/-- 43_reed_solomon.md R164: linearity, all-zero data, leading zeros, and single-byte data. -/
def Obligations.ParityLaws : Prop :=
  (∀ (d d' : List Byte) (n : Nat), d.length = d'.length →
    rsParity (List.zipWith (· ^^^ ·) d d') n = List.zipWith (· ^^^ ·) (rsParity d n) (rsParity d' n)) ∧
  (∀ k n : Nat, rsParity (List.replicate k 0#8) n = List.replicate n 0#8) ∧
  (∀ (d : List Byte) (n : Nat), rsParity (0#8 :: d) n = rsParity d n) ∧
  (∀ n : Nat, rsParity [0x01#8] n = (generator n).tail)

/-- 43_reed_solomon.md R165: RS_BLOCK writes the parity of ARG1 data bytes at ARG0 to ARG3 bytes at ARG2, read before written, and ARG3 to
RES0; illegal lengths are InvalidInput, then an illegal range BadAddress. -/
def Obligations.RsBlockWritesParity : Prop :=
  decode 0x00000030#32 = .ok .rsBlock ∧
  UsesOnly 0x30#8 [] ∧
  ∀ s : State,
    (1 ≤ s.arg1.toNat → 1 ≤ s.arg3.toNat → s.arg1.toNat + s.arg3.toNat ≤ 255 →
      (s.arg0.toNat + s.arg1.toNat ≤ s.params.dataRamBytes → s.arg2.toNat + s.arg3.toNat ≤ s.params.dataRamBytes →
        ∃ t, exec .rsBlock s = .next t ∧
          (∀ j, j < s.arg3.toNat → some (t.ramByte .data (s.arg2.toNat + j)) =
            (rsParity ((List.range s.arg1.toNat).map fun i => s.ramByte .data (s.arg0.toNat + i)) s.arg3.toNat)[j]?) ∧
          KeepsOutside .data s.arg2.toNat s.arg3.toNat s t ∧ KeepsOtherRams .data s t ∧
          t.res.res0 = s.arg3 ∧ KeepsRes1to7 s t ∧ KeepsBuffers s t ∧ KeepsTable s t ∧ Succeeded s t ∧ KeepsSettings s t) ∧
      (s.params.dataRamBytes < s.arg0.toNat + s.arg1.toNat ∨ s.params.dataRamBytes < s.arg2.toNat + s.arg3.toNat →
        FailsWith .badAddress .rsBlock s)) ∧
    (s.arg1.toNat = 0 ∨ s.arg3.toNat = 0 ∨ 255 < s.arg1.toNat + s.arg3.toNat → FailsWith .invalidInput .rsBlock s)

/-- 43_reed_solomon.md R166, R167, R168: RS_INTERLEAVE puts byte c of block r at output index c·B + r, the last byte of group-2 block r at
B·d1 + (r − b1), and parity byte c of block r at D + c·B + r; RES0 to RES2 are D + E, D and E; nothing else changes. -/
def Obligations.RsInterleaveWritesStream : Prop :=
  decode 0x00000031#32 = .ok .rsInterleave ∧
  UsesOnly 0x31#8 [] ∧
  ∀ (s : State) (g : Geometry),
    g = ⟨s.arg1.toNat % 256, s.arg1.toNat / 256 % 256, s.arg1.toNat / 65536 % 256, s.arg1.toNat / 16777216, s.arg3.toNat⟩ →
    1 ≤ g.b1 → 1 ≤ g.d1 → 1 ≤ g.e → (g.b2 = 0 → g.d2 = 0) → (1 ≤ g.b2 → g.d2 = g.d1 + 1 ∧ g.d2 + g.e ≤ 255) → g.d1 + g.e ≤ 255 →
    s.arg0.toNat + g.dataLen ≤ s.params.dataRamBytes → s.arg2.toNat + g.dataLen + g.parityLen ≤ s.params.dataRamBytes →
    ∃ t, exec .rsInterleave s = .next t ∧
      (∀ r c, r < g.blocks → c < g.d1 →
        t.ramByte .data (s.arg2.toNat + c * g.blocks + r) = s.ramByte .data (s.arg0.toNat + g.blockStart r + c)) ∧
      (∀ r, g.b1 ≤ r → r < g.blocks →
        t.ramByte .data (s.arg2.toNat + g.blocks * g.d1 + (r - g.b1)) = s.ramByte .data (s.arg0.toNat + g.blockStart r + g.d1)) ∧
      (∀ r c, r < g.blocks → c < g.e →
        some (t.ramByte .data (s.arg2.toNat + g.dataLen + c * g.blocks + r)) =
          (rsParity ((List.range (g.blockLen r)).map fun i => s.ramByte .data (s.arg0.toNat + g.blockStart r + i)) g.e)[c]?) ∧
      KeepsOutside .data s.arg2.toNat (g.dataLen + g.parityLen) s t ∧ KeepsOtherRams .data s t ∧
      t.res.res0 = BitVec.ofNat 32 (g.dataLen + g.parityLen) ∧ t.res.res1 = BitVec.ofNat 32 g.dataLen ∧
      t.res.res2 = BitVec.ofNat 32 g.parityLen ∧ t.res.res3 = s.res.res3 ∧ t.res.res4 = s.res.res4 ∧ t.res.res5 = s.res.res5 ∧
      t.res.res6 = s.res.res6 ∧ t.res.res7 = s.res.res7 ∧
      KeepsBuffers s t ∧ KeepsTable s t ∧ Succeeded s t ∧ KeepsSettings s t

/-- 43_reed_solomon.md R166, R167, 60_exceptions.md R253: an illegal geometry is InvalidInput, then an illegal range BadAddress. -/
def Obligations.RsInterleaveErrors : Prop :=
  ∀ (s : State) (g : Geometry),
    g = ⟨s.arg1.toNat % 256, s.arg1.toNat / 256 % 256, s.arg1.toNat / 65536 % 256, s.arg1.toNat / 16777216, s.arg3.toNat⟩ →
    let legal := 1 ≤ g.b1 ∧ 1 ≤ g.d1 ∧ 1 ≤ g.e ∧ (g.b2 = 0 → g.d2 = 0) ∧ (1 ≤ g.b2 → g.d2 = g.d1 + 1 ∧ g.d2 + g.e ≤ 255) ∧ g.d1 + g.e ≤ 255
    (¬ legal → FailsWith .invalidInput .rsInterleave s) ∧
    (legal → s.params.dataRamBytes < s.arg0.toNat + g.dataLen ∨ s.params.dataRamBytes < s.arg2.toNat + g.dataLen + g.parityLen →
      FailsWith .badAddress .rsInterleave s)

/-! ### Placer -/

/-- 44_placer.md R196: on every legal grid the cursor takes each module outside column 6 and outside rows 0 to 8 of columns 4 and 5 exactly
once, and no other position. -/
def Obligations.TrailVisitsEachModuleOnce : Prop :=
  ∀ v, 1 ≤ v → v ≤ 40 →
    ((trail (symbolWidth v)).map fun c => (c.x, c.y)).Nodup ∧
    ∀ x y : Int, (∃ c ∈ trail (symbolWidth v), c.x = x ∧ c.y = y) ↔
      (0 ≤ x ∧ x < symbolWidth v ∧ 0 ≤ y ∧ y < symbolWidth v ∧ x ≠ 6 ∧ ¬ ((x = 4 ∨ x = 5) ∧ y ≤ 8))

/-- 44_placer.md R193 to R195: FILL writes bit j of the stream, as 0x02 or 0x03, to the j-th data module of the cursor's trail, and 8N + R to
RES0; every other byte is kept. -/
def Obligations.FillPlacesStreamAlongTrail : Prop :=
  decode 0x00000040#32 = .ok .fill ∧
  UsesOnly 0x40#8 [] ∧
  ∀ s : State, 1 ≤ s.version.toNat → s.version.toNat ≤ 40 → s.arg0.toNat + s.arg1.toNat ≤ s.params.dataRamBytes →
    8 * s.arg1.toNat + s.arg2.toNat ≤ s.freeModules.length →
    ∃ t, exec .fill s = .next t ∧
      (∀ j, j < 8 * s.arg1.toNat + s.arg2.toNat → ∀ i, s.freeModules[j]? = some i →
        t.ramByte .frame i =
          if j < 8 * s.arg1.toNat ∧ (s.ramByte .data (s.arg0.toNat + j / 8)).getLsbD (7 - j % 8) = true then 0x03#8 else 0x02#8) ∧
      (∀ i, i ∉ s.freeModules.take (8 * s.arg1.toNat + s.arg2.toNat) → t.ramByte .frame i = s.ramByte .frame i) ∧
      KeepsOtherRams .frame s t ∧ t.res.res0 = BitVec.ofNat 32 (8 * s.arg1.toNat + s.arg2.toNat) ∧ KeepsRes1to7 s t ∧
      KeepsBuffers s t ∧ KeepsTable s t ∧ Succeeded s t ∧ KeepsSettings s t

/-- 44_placer.md R195, R197: a VERSION outside 1 to 40 is InvalidInput, an illegal range BadAddress, and FrameOverflow arises exactly when
8N + R exceeds the number of data modules the cursor reaches. -/
def Obligations.FillErrors : Prop :=
  ∀ s : State,
    (s.version.toNat < 1 ∨ 40 < s.version.toNat → FailsWith .invalidInput .fill s) ∧
    (1 ≤ s.version.toNat → s.version.toNat ≤ 40 →
      (s.params.dataRamBytes < s.arg0.toNat + s.arg1.toNat → FailsWith .badAddress .fill s) ∧
      (s.arg0.toNat + s.arg1.toNat ≤ s.params.dataRamBytes →
        (FailsWith .frameOverflow .fill s ↔ s.freeModules.length < 8 * s.arg1.toNat + s.arg2.toNat)))

/-! ### Mask engine -/

/-- 45_mask.md R210, R211, R215, R217: in candidate k each format bit has its two positions, which are 30 distinct ones; elsewhere a reserved module
is copied and a data module has bit 0 flipped exactly when the predicate of R210, written out here, is zero. -/
def Obligations.CandidateModules : Prop :=
  ∀ (v : Nat) (frame : Nat → Byte) (l : BitVec 2) (k : Fin 8), 1 ≤ v → v ≤ 40 →
    let w := 17 + 4 * v
    let first : List (Nat × Nat) :=
      [(8, 0), (8, 1), (8, 2), (8, 3), (8, 4), (8, 5), (8, 7), (8, 8), (7, 8), (5, 8), (4, 8), (3, 8), (2, 8), (1, 8), (0, 8)]
    let second : List (Nat × Nat) := (List.range 15).map fun t => if t ≤ 7 then (w - 1 - t, 8) else (8, w - 15 + t)
    (first ++ second).Nodup ∧
    (∀ t x y, first[t]? = some (x, y) ∨ second[t]? = some (x, y) →
      candidateByte w frame l k x y = if (romWord l k).getLsbD t then 0x85#8 else 0x84#8) ∧
    (∀ x y, x < w → y < w → (x, y) ∉ first ++ second →
      candidateByte w frame l k x y =
        if (frame (y * w + x)).getLsbD 7 = false ∧
            ([(x + y) % 2, y % 2, x % 3, (x + y) % 3, (y / 2 + x / 3) % 2, (x * y) % 2 + (x * y) % 3, ((x * y) % 2 + (x * y) % 3) % 2,
              ((x * y) % 3 + (x + y) % 2) % 2] : List Nat)[k.val]? = some 0
          then frame (y * w + x) ^^^ 0x01#8 else frame (y * w + x))

/-- 45_mask.md R213, R214, R216: the ROM holds the BCH(15,5) word of every level and mask: it is divisible by the generator once the XOR
constant is taken off, and its five data bits are {level XOR 1, k}. -/
def Obligations.FormatRomHoldsBchWords : Prop :=
  ∀ (l : BitVec 2) (k : Fin 8),
    romWord l k = formatWord l k ∧
    ((romWord l k ^^^ 0x5412#15).extractLsb' 10 5).toNat = 8 * (l ^^^ 1#2).toNat + k.val ∧
    bchReduce 5 (romWord l k ^^^ 0x5412#15) = 0#15

/-- 45_mask.md R224: the selected mask has the lowest score, and is the lowest-numbered of those that have it. -/
def Obligations.SelectionIsLowestFirst : Prop :=
  ∀ (score : Fin 8 → Nat) (k : Fin 8),
    score (selectBest score) ≤ score k ∧ (score k = score (selectBest score) → selectBest score ≤ k)

/-- 45_mask.md R218 to R223: `runs` gives the one run list of a line; the demerits of a grid, and of candidate k, are those of R219 to R222
over its colours; their total is the sum of the four, and for any symbol width it is below 2^32, so RES0 holds it whole. -/
def Obligations.ScoresFitInRegisters : Prop :=
  (∀ (line : List Bool) (r : List Int), line ≠ [] → (RunListOf line r ↔ r = runs line)) ∧
  (∀ (m : N4Rounding) (w : Nat) (f : Nat → Nat → Byte),
    ScoredAs m w (fun x y => (f x y).getLsbD 0) ((Grid.ofFn w f).demerits m w)) ∧
  (∀ (s : State) (k : Fin 8),
    ScoredAs s.params.n4Rounding (17 + 4 * s.version.toNat)
      (fun x y => (candidateByte (17 + 4 * s.version.toNat) (s.ramByte .frame) s.level k x y).getLsbD 0) (s.candidateDemerits k)) ∧
  (∀ (m : N4Rounding) (w : Nat) (g : Grid), w ≤ 177 →
    (g.demerits m w).total = (g.demerits m w).n1 + (g.demerits m w).n2 + (g.demerits m w).n3 + (g.demerits m w).n4 ∧
    (g.demerits m w).total < 2 ^ 32)

/-- 45_mask.md R228: MASK_EVAL writes candidate k to CAND_RAM and its scores to RES0 to RES6; a VERSION outside 1 to 40 is InvalidInput. -/
def Obligations.MaskEvalWritesCandidate : Prop :=
  (∀ k : Fin 8, decode (BitVec.ofNat 32 (0x50 + 1024 * k.val)) = .ok (.maskEval k)) ∧
  UsesOnly 0x50#8 [10, 11, 12] ∧
  ∀ (k : Fin 8) (s : State),
    (1 ≤ s.version.toNat → s.version.toNat ≤ 40 →
      ∃ t, exec (.maskEval k) s = .next t ∧
        (∀ x y, x < s.gridWidth → y < s.gridWidth → t.ramByte .cand (y * s.gridWidth + x) =
          candidateByte s.gridWidth (s.ramByte .frame) s.level k x y) ∧
        KeepsOutside .cand 0 (s.gridWidth * s.gridWidth) s t ∧ KeepsOtherRams .cand s t ∧
        t.res = ⟨BitVec.ofNat 32 (s.candidateDemerits k).total, BitVec.ofNat 32 k.val, BitVec.ofNat 32 (s.candidateDemerits k).n1,
          BitVec.ofNat 32 (s.candidateDemerits k).n2, BitVec.ofNat 32 (s.candidateDemerits k).n3,
          BitVec.ofNat 32 (s.candidateDemerits k).n4, BitVec.ofNat 32 (s.candidateDemerits k).dark, s.res.res7⟩ ∧
        KeepsBuffers s t ∧ KeepsTable s t ∧ Succeeded s t ∧ KeepsSettings s t) ∧
    (s.version.toNat < 1 ∨ 40 < s.version.toNat → FailsWith .invalidInput (.maskEval k) s)

/-- 45_mask.md R224, R230: MASK_SELECT writes the lowest-scoring candidate, the first among equals, to SYM_RAM, candidate 7 to CAND_RAM, and
the winner's scores to RES0 to RES6; a VERSION outside 1 to 40 is InvalidInput. -/
def Obligations.MaskSelectWritesWinner : Prop :=
  decode 0x00000051#32 = .ok .maskSelect ∧
  UsesOnly 0x51#8 [] ∧
  ∀ s : State,
    (1 ≤ s.version.toNat → s.version.toNat ≤ 40 →
      ∃ t b, exec .maskSelect s = .next t ∧
        (∀ k, (s.candidateDemerits b).total ≤ (s.candidateDemerits k).total ∧
          ((s.candidateDemerits k).total = (s.candidateDemerits b).total → b ≤ k)) ∧
        (∀ x y, x < s.gridWidth → y < s.gridWidth → t.ramByte .sym (y * s.gridWidth + x) =
          candidateByte s.gridWidth (s.ramByte .frame) s.level b x y) ∧
        (∀ x y, x < s.gridWidth → y < s.gridWidth → t.ramByte .cand (y * s.gridWidth + x) =
          candidateByte s.gridWidth (s.ramByte .frame) s.level 7 x y) ∧
        KeepsOutside .sym 0 (s.gridWidth * s.gridWidth) s t ∧ KeepsOutside .cand 0 (s.gridWidth * s.gridWidth) s t ∧
        KeepsRam .data s t ∧ KeepsRam .frame s t ∧
        t.res = ⟨BitVec.ofNat 32 (s.candidateDemerits b).total, BitVec.ofNat 32 b.val, BitVec.ofNat 32 (s.candidateDemerits b).n1,
          BitVec.ofNat 32 (s.candidateDemerits b).n2, BitVec.ofNat 32 (s.candidateDemerits b).n3,
          BitVec.ofNat 32 (s.candidateDemerits b).n4, BitVec.ofNat 32 (s.candidateDemerits b).dark, s.res.res7⟩ ∧
        KeepsBuffers s t ∧ KeepsTable s t ∧ Succeeded s t ∧ KeepsSettings s t) ∧
    (s.version.toNat < 1 ∨ 40 < s.version.toNat → FailsWith .invalidInput .maskSelect s)

/-- 45_mask.md R232: MASK_FORCE writes candidate k to SYM_RAM, k to RES1, and 0 to RES0 and RES2 to RES6; a VERSION outside 1 to 40 is
InvalidInput. -/
def Obligations.MaskForceWritesCandidate : Prop :=
  (∀ k : Fin 8, decode (BitVec.ofNat 32 (0x52 + 1024 * k.val)) = .ok (.maskForce k)) ∧
  UsesOnly 0x52#8 [10, 11, 12] ∧
  ∀ (k : Fin 8) (s : State),
    (1 ≤ s.version.toNat → s.version.toNat ≤ 40 →
      ∃ t, exec (.maskForce k) s = .next t ∧
        (∀ x y, x < s.gridWidth → y < s.gridWidth → t.ramByte .sym (y * s.gridWidth + x) =
          candidateByte s.gridWidth (s.ramByte .frame) s.level k x y) ∧
        KeepsOutside .sym 0 (s.gridWidth * s.gridWidth) s t ∧ KeepsOtherRams .sym s t ∧
        t.res = ⟨0#32, BitVec.ofNat 32 k.val, 0#32, 0#32, 0#32, 0#32, 0#32, s.res.res7⟩ ∧
        KeepsBuffers s t ∧ KeepsTable s t ∧ Succeeded s t ∧ KeepsSettings s t) ∧
    (s.version.toNat < 1 ∨ 40 < s.version.toNat → FailsWith .invalidInput (.maskForce k) s)

/-- 45_mask.md R232, 70_reset_and_hazards.md R293: after MASK_SELECT, MASK_FORCE of the mask in RES1 leaves every byte of SYM_RAM as it is. -/
def Obligations.ForceOfSelectedMaskRebuildsSymbol : Prop :=
  ∀ (s t : State) (k : Fin 8), 1 ≤ s.version.toNat → s.version.toNat ≤ 40 → exec .maskSelect s = .next t →
    t.res.res1 = BitVec.ofNat 32 k.val →
    ∃ u, exec (.maskForce k) t = .next u ∧ u.status.err = false ∧ KeepsRams t u

/-! ### Host port and reset -/

/-- 20_memory.md R52, R53, R55: a transaction of the wrong size or alignment returns err = 1 (and rdata = 0 for a read), sets BUSERR, and changes
nothing else; it never issues a command. -/
def Obligations.BusErrorSetsOnlyBuserr : Prop :=
  ∀ (s : State) (addr : BitVec 18) (size : BusSize) (v : Word), s.rstLow = false →
    ((addr.toNat < 0x1000 ∧ (size ≠ .word ∨ addr.toNat % 4 ≠ 0)) ∨ (0x1000 ≤ addr.toNat ∧ addr.toNat % size.bytes ≠ 0)) →
    s.busRead addr size = { s with status := { s.status with busErr := true }, response := some (.readReply 0#32 true) } ∧
    s.busWrite addr size v = { s with status := { s.status with busErr := true }, response := some (.writeReply true) }

/-- 10_state.md R27: a 32-bit write of v to STATUS clears BUSERR if v[16] = 1 and ANYERR if v[17] = 1, and ignores every other bit. -/
def Obligations.StatusWriteClearsStickyBits : Prop :=
  ∀ (s : State) (v : Word), s.rstLow = false →
    s.busWrite 0x00008#18 .word v =
      { s with
        status := { s.status with
          busErr := if v.getLsbD 16 then false else s.status.busErr
          anyErr := if v.getLsbD 17 then false else s.status.anyErr }
        response := some (.writeReply false) }

/-- 10_state.md R22 to R24, R28 to R32, R38, R39, 20_memory.md R52, R60: what each aligned word read of the register window returns, with no
effect but its reply; which register each write changes, and that it changes nothing else; that read-only and reserved offsets ignore writes. -/
def Obligations.HostRegisterAccess : Prop :=
  ∀ s : State, s.rstLow = false →
    let reads := fun (a : BitVec 18) (w : Word) => s.busRead a .word = { s with response := some (.readReply w false) }
    let ignores := fun (a : BitVec 18) => ∀ v : Word, s.busWrite a .word v = { s with response := some (.writeReply false) }
    (reads 0x00000#18 0x51524301#32 ∧ reads 0x00004#18 0#32 ∧ reads 0x00008#18 s.statusWord ∧
      reads 0x0000C#18 (BitVec.ofNat 32 s.version.toNat) ∧ reads 0x00010#18 (BitVec.ofNat 32 s.level.toNat) ∧
      reads 0x00014#18 s.arg0 ∧ reads 0x00018#18 s.arg1 ∧ reads 0x0001C#18 s.arg2 ∧ reads 0x00020#18 s.arg3 ∧
      reads 0x00024#18 s.res.res0 ∧ reads 0x00028#18 s.res.res1 ∧ reads 0x0002C#18 s.res.res2 ∧ reads 0x00030#18 s.res.res3 ∧
      reads 0x00034#18 s.res.res4 ∧ reads 0x00038#18 s.res.res5 ∧ reads 0x0003C#18 s.res.res6 ∧ reads 0x00040#18 s.res.res7 ∧
      reads 0x00044#18 (BitVec.ofNat 32 s.bsb0.length) ∧ reads 0x00048#18 (BitVec.ofNat 32 s.bsb1.length) ∧
      reads 0x0004C#18 s.segCount ∧ reads 0x00050#18 (BitVec.ofNat 32 s.params.bsbCapBits) ∧
      reads 0x00054#18 (BitVec.ofNat 32 s.params.dataRamBytes) ∧ reads 0x00058#18 (BitVec.ofNat 32 s.params.nsegMax) ∧
      reads 0x0005C#18 (BitVec.ofNat 32
        ((if s.params.n4Rounding = .truncate then 1 else 0) + (if s.params.anResumeLi = .la then 2 else 0)))) ∧
    (∀ a ∈ [0x00000#18, 0x00024#18, 0x00028#18, 0x0002C#18, 0x00030#18, 0x00034#18, 0x00038#18, 0x0003C#18, 0x00040#18,
        0x00044#18, 0x00048#18, 0x0004C#18, 0x00050#18, 0x00054#18, 0x00058#18, 0x0005C#18], ignores a) ∧
    (∀ a : BitVec 18, 0x060 ≤ a.toNat → a.toNat ≤ 0xFFC → a.toNat % 4 = 0 → reads a 0#32 ∧ ignores a) ∧
    (∀ v : Word,
      s.busWrite 0x0000C#18 .word v = { s with version := v.extractLsb' 0 6, response := some (.writeReply false) } ∧
      s.busWrite 0x00010#18 .word v = { s with level := v.extractLsb' 0 2, response := some (.writeReply false) } ∧
      s.busWrite 0x00014#18 .word v = { s with arg0 := v, response := some (.writeReply false) } ∧
      s.busWrite 0x00018#18 .word v = { s with arg1 := v, response := some (.writeReply false) } ∧
      s.busWrite 0x0001C#18 .word v = { s with arg2 := v, response := some (.writeReply false) } ∧
      s.busWrite 0x00020#18 .word v = { s with arg3 := v, response := some (.writeReply false) } ∧
      ((s.busWrite 0x0000C#18 .word v).busRead 0x0000C#18 .word).response = some (.readReply (v &&& 0x3F#32) false) ∧
      ((s.busWrite 0x00010#18 .word v).busRead 0x00010#18 .word).response = some (.readReply (v &&& 0x3#32) false) ∧
      (∀ a ∈ [0x00014#18, 0x00018#18, 0x0001C#18, 0x00020#18],
        ((s.busWrite a .word v).busRead a .word).response = some (.readReply v false)))

/-- 20_memory.md R51, R53, R56: an aligned write to the DATA_RAM or FRAME_RAM window stores its bytes lowest address first where the RAM backs
them, and changes no other byte and nothing else of the state but the reply; the same read then returns them, an unbacked byte as 0. -/
def Obligations.RamWriteThenReadReturnsIt : Prop :=
  ∀ (s : State) (r : Ram) (o : Nat) (size : BusSize) (v : Word), s.rstLow = false → (r = .data ∨ r = .frame) →
    o % size.bytes = 0 → o < windowSize r →
    let addr := BitVec.ofNat 18 (windowBase r + o)
    ∃ t, s.busWrite addr size v = t ∧
      (∀ i, i < size.bytes → o + i < backedBytes s.params r → t.ramByte r (o + i) = v.extractLsb' (8 * i) 8) ∧
      (∀ x, x < o ∨ o + size.bytes ≤ x ∨ backedBytes s.params r ≤ x → t.ramByte r x = s.ramByte r x) ∧
      KeepsOtherRams r s t ∧ t = { s.setRam r (t.ram r) with response := some (.writeReply false) } ∧
      t.busRead addr size = { t with response := some (.readReply (BitVec.ofNat 32 (((List.range size.bytes).map fun i =>
        if o + i < backedBytes s.params r then (v.toNat / 256 ^ i) % 256 * 256 ^ i else 0).sum)) false) } ∧
      (o + size.bytes ≤ backedBytes s.params r →
        (t.busRead addr size).response = some (.readReply (BitVec.ofNat 32 (v.toNat % 256 ^ size.bytes)) false))

/-- 20_memory.md R51, R53, R54, R60, 10_state.md R39: legal writes to the segment table, CAND_RAM, SYM_RAM, unmapped ranges and unbacked DATA_RAM
offsets are ignored without error. A legal read changes nothing but the reply: in a RAM window it returns the bytes little-endian, an unbacked
byte as 0; in the segment table the two words of the entry (at or above NSEG_MAX the model's choice, log entry 3); elsewhere 0. -/
def Obligations.ReadOnlyAndUnmappedRanges : Prop :=
  ∀ (s : State) (addr : BitVec 18) (size : BusSize) (v : Word), s.rstLow = false → addr.toNat % size.bytes = 0 →
    let a := addr.toNat
    let readOnly := (0x1000 ≤ a ∧ a < 0x3000) ∨ (0x28000 ≤ a ∧ a < 0x38000)
    let unmapped := (0x3000 ≤ a ∧ a < 0x10000) ∨ 0x38000 ≤ a
    let unbacked := 0x10000 + s.params.dataRamBytes ≤ a ∧ a < 0x20000
    (s.Inv → readOnly ∨ unmapped ∨ unbacked → s.busWrite addr size v = { s with response := some (.writeReply false) }) ∧
    (unmapped ∨ unbacked → s.busRead addr size = { s with response := some (.readReply 0#32 false) }) ∧
    (0x1000 ≤ a → a < 0x3000 →
      s.busRead addr size = { s with response := some (.readReply (s.tableData (a - 0x1000) size.bytes) false) }) ∧
    (∀ r, windowBase r ≤ a → a < windowBase r + windowSize r →
      s.busRead addr size = { s with response := some (.readReply (s.windowData r (a - windowBase r) size.bytes) false) })

/-- 70_reset_and_hazards.md R280, R281 and 10_state.md R43: asserting rst_n, while idle or while a command is pending, abandons the command if any
and leaves every register at its reset value, and everything unspecified drawn anew (log entries 2, 3 and 5); while it is low transactions are
not performed and return 0 without error. -/
def Obligations.HardwareResetAbandonsCommand : Prop :=
  (∀ (s : State) (early : Bool) (rest : List HostEvent), (s.pending = none ∨ early = true) → s.rstLow = false →
    s.hostQueue = ⟨.assertReset, early⟩ :: rest →
    ∃ t, step s = .next t ∧ t.rstLow = true ∧ t.pending = none ∧ t.status = ⟨false, false, 0#8, false, false⟩ ∧
      t.version = 0#6 ∧ t.level = 0#2 ∧ t.arg0 = 0#32 ∧ t.arg1 = 0#32 ∧ t.arg2 = 0#32 ∧ t.arg3 = 0#32 ∧
      t.res = ⟨0#32, 0#32, 0#32, 0#32, 0#32, 0#32, 0#32, 0#32⟩ ∧ t.bsb0 = [] ∧ t.bsb1 = [] ∧ t.segCount = 0#32 ∧
      t.params = s.params ∧ t.hostQueue = rest ∧ t.response = none ∧ t.draws = s.draws + 1 ∧
      (∀ r a, t.ramByte r a = Config.drawnByte (s.draws + 1) r a) ∧
      (∀ j, t.segEntry j = ⟨Config.drawnMode (s.draws + 1) j, Config.drawnStart (s.draws + 1) j, Config.drawnLength (s.draws + 1) j⟩)) ∧
  (∀ (s : State) (addr : BitVec 18) (size : BusSize) (v : Word), s.rstLow = true →
    s.busRead addr size = { s with response := some (.readReply 0#32 false) } ∧
    s.busWrite addr size v = { s with response := some (.writeReply false) } ∧
    s.hostAct .releaseReset = { s with rstLow := false })

/-! ### The segmenter's comparisons -/

/-- 42_segmenter.md R130 to R136: for every input and version the split is the scan of R136 with the absorb comparisons of R133 to R135, the
character classes of R130, the widths of R131 written out here, and the costs of R132. -/
def Obligations.SplitFollowsTheComparisons : Prop :=
  ∀ (x : AnResumeLi) (v : Nat) (text : List Byte),
    let w : Widths :=
      if v ≤ 9 then ⟨10, 9, 8, if x = .ln then 10 else 9⟩
      else if v ≤ 26 then ⟨12, 11, 16, if x = .ln then 12 else 11⟩
      else ⟨14, 13, 16, if x = .ln then 14 else 13⟩
    ScanEmits w text 0 (split (widthsFor x v) text)
end

