-- ==== Sys2Proof/Laws/Bus.lean ====
section
/-! SUPPORT. What a host transaction can do: the region of a window's addresses, and the three outcomes of a read and of a write. -/

namespace Sys2Proof.Machine

theorem ramBase_eq_windowBase (r : Ram) : ramBase r = windowBase r := by cases r <;> rfl

theorem ramBytes_eq_backedBytes (p : Params) (r : Ram) : ramBytes p r = backedBytes p r := by cases r <;> rfl

/-- The addresses of a RAM's window are that RAM's (20_memory.md R51). -/
theorem regionOf_window (r : Ram) (o : Nat) (h : o < windowSize r) : regionOf (windowBase r + o) = .ram r := by
  cases r
  · have h : o < 0x10000 := h
    show regionOf (0x10000 + o) = _
    rw [regionOf, if_neg (by omega), if_neg (by omega), if_neg (by omega), if_pos (by omega)]
  · have h : o < 0x8000 := h
    show regionOf (0x20000 + o) = _
    rw [regionOf, if_neg (by omega), if_neg (by omega), if_neg (by omega), if_neg (by omega), if_pos (by omega)]
  · have h : o < 0x8000 := h
    show regionOf (0x28000 + o) = _
    rw [regionOf, if_neg (by omega), if_neg (by omega), if_neg (by omega), if_neg (by omega), if_neg (by omega), if_pos (by omega)]
  · have h : o < 0x8000 := h
    show regionOf (0x30000 + o) = _
    rw [regionOf, if_neg (by omega), if_neg (by omega), if_neg (by omega), if_neg (by omega), if_neg (by omega), if_neg (by omega),
      if_pos (by omega)]

theorem regionOf_registers (a : Nat) (h : a < 0x1000) : regionOf a = .registers := if_pos h

theorem regionOf_segmentTable (a : Nat) (h : 0x1000 ≤ a) (h' : a < 0x3000) : regionOf a = .segmentTable := by
  rw [regionOf, if_neg (by omega), if_pos h']

/-- Outside the register window a transaction is legal exactly when it is aligned (20_memory.md R53, R54). -/
theorem legalAccess_outside_registers (a : Nat) (size : BusSize) (h : 0x1000 ≤ a) : legalAccess a size = (a % size.bytes == 0) := by
  have : regionOf a ≠ .registers := by
    unfold regionOf; rw [if_neg (by omega)]; repeat' split
    all_goals exact Region.noConfusion
  cases hr : regionOf a <;> simp_all [legalAccess]

/-- A legal read changes the response alone (20_memory.md R60). -/
theorem State.busRead_legal (s : State) (addr : BitVec 18) (size : BusSize) (hr : s.rstLow = false)
    (h : legalAccess addr.toNat size = true) :
    s.busRead addr size = { s with response := some (.readReply (s.readData addr.toNat size) false) } := by
  simp [State.busRead, hr, h]

theorem State.busRead_illegal (s : State) (addr : BitVec 18) (size : BusSize) (hr : s.rstLow = false)
    (h : legalAccess addr.toNat size = false) :
    s.busRead addr size = { s.busError with response := some (.readReply 0#32 true) } := by
  simp [State.busRead, hr, h]

theorem State.busWrite_legal (s : State) (addr : BitVec 18) (size : BusSize) (v : Word) (hr : s.rstLow = false)
    (h : legalAccess addr.toNat size = true) :
    s.busWrite addr size v = { s.writeData addr.toNat size v with response := some (.writeReply false) } := by
  simp [State.busWrite, hr, h]

theorem State.busWrite_illegal (s : State) (addr : BitVec 18) (size : BusSize) (v : Word) (hr : s.rstLow = false)
    (h : legalAccess addr.toNat size = false) :
    s.busWrite addr size v = { s.busError with response := some (.writeReply true) } := by
  simp [State.busWrite, hr, h]

end Sys2Proof.Machine
end

