-- ==== Sys2Proof/Laws/State.lean ====
section
/-! SUPPORT. One lemma per field per update of State, so that no later proof unfolds a record update, and the accessors through the updates. -/

namespace Sys2Proof.Machine

/-! ### setRam -/

@[simp] theorem State.setRam_params (s : State) (r : Ram) (m : Memory) : (s.setRam r m).params = s.params := by cases r <;> rfl
@[simp] theorem State.setRam_version (s : State) (r : Ram) (m : Memory) : (s.setRam r m).version = s.version := by cases r <;> rfl
@[simp] theorem State.setRam_level (s : State) (r : Ram) (m : Memory) : (s.setRam r m).level = s.level := by cases r <;> rfl
@[simp] theorem State.setRam_arg0 (s : State) (r : Ram) (m : Memory) : (s.setRam r m).arg0 = s.arg0 := by cases r <;> rfl
@[simp] theorem State.setRam_arg1 (s : State) (r : Ram) (m : Memory) : (s.setRam r m).arg1 = s.arg1 := by cases r <;> rfl
@[simp] theorem State.setRam_arg2 (s : State) (r : Ram) (m : Memory) : (s.setRam r m).arg2 = s.arg2 := by cases r <;> rfl
@[simp] theorem State.setRam_arg3 (s : State) (r : Ram) (m : Memory) : (s.setRam r m).arg3 = s.arg3 := by cases r <;> rfl
@[simp] theorem State.setRam_res (s : State) (r : Ram) (m : Memory) : (s.setRam r m).res = s.res := by cases r <;> rfl
@[simp] theorem State.setRam_status (s : State) (r : Ram) (m : Memory) : (s.setRam r m).status = s.status := by cases r <;> rfl
@[simp] theorem State.setRam_pending (s : State) (r : Ram) (m : Memory) : (s.setRam r m).pending = s.pending := by cases r <;> rfl
@[simp] theorem State.setRam_bsb0 (s : State) (r : Ram) (m : Memory) : (s.setRam r m).bsb0 = s.bsb0 := by cases r <;> rfl
@[simp] theorem State.setRam_bsb1 (s : State) (r : Ram) (m : Memory) : (s.setRam r m).bsb1 = s.bsb1 := by cases r <;> rfl
@[simp] theorem State.setRam_segs (s : State) (r : Ram) (m : Memory) : (s.setRam r m).segs = s.segs := by cases r <;> rfl
@[simp] theorem State.setRam_segCount (s : State) (r : Ram) (m : Memory) : (s.setRam r m).segCount = s.segCount := by cases r <;> rfl
@[simp] theorem State.setRam_draws (s : State) (r : Ram) (m : Memory) : (s.setRam r m).draws = s.draws := by cases r <;> rfl
@[simp] theorem State.setRam_rstLow (s : State) (r : Ram) (m : Memory) : (s.setRam r m).rstLow = s.rstLow := by cases r <;> rfl
@[simp] theorem State.setRam_hostQueue (s : State) (r : Ram) (m : Memory) : (s.setRam r m).hostQueue = s.hostQueue := by cases r <;> rfl
@[simp] theorem State.setRam_response (s : State) (r : Ram) (m : Memory) : (s.setRam r m).response = s.response := by cases r <;> rfl

/-! ### setBsb -/

@[simp] theorem State.setBsb_params (s : State) (b : Buf) (l : List Bool) : (s.setBsb b l).params = s.params := by cases b <;> rfl
@[simp] theorem State.setBsb_version (s : State) (b : Buf) (l : List Bool) : (s.setBsb b l).version = s.version := by cases b <;> rfl
@[simp] theorem State.setBsb_level (s : State) (b : Buf) (l : List Bool) : (s.setBsb b l).level = s.level := by cases b <;> rfl
@[simp] theorem State.setBsb_arg0 (s : State) (b : Buf) (l : List Bool) : (s.setBsb b l).arg0 = s.arg0 := by cases b <;> rfl
@[simp] theorem State.setBsb_arg1 (s : State) (b : Buf) (l : List Bool) : (s.setBsb b l).arg1 = s.arg1 := by cases b <;> rfl
@[simp] theorem State.setBsb_arg2 (s : State) (b : Buf) (l : List Bool) : (s.setBsb b l).arg2 = s.arg2 := by cases b <;> rfl
@[simp] theorem State.setBsb_arg3 (s : State) (b : Buf) (l : List Bool) : (s.setBsb b l).arg3 = s.arg3 := by cases b <;> rfl
@[simp] theorem State.setBsb_res (s : State) (b : Buf) (l : List Bool) : (s.setBsb b l).res = s.res := by cases b <;> rfl
@[simp] theorem State.setBsb_status (s : State) (b : Buf) (l : List Bool) : (s.setBsb b l).status = s.status := by cases b <;> rfl
@[simp] theorem State.setBsb_pending (s : State) (b : Buf) (l : List Bool) : (s.setBsb b l).pending = s.pending := by cases b <;> rfl
@[simp] theorem State.setBsb_segs (s : State) (b : Buf) (l : List Bool) : (s.setBsb b l).segs = s.segs := by cases b <;> rfl
@[simp] theorem State.setBsb_segCount (s : State) (b : Buf) (l : List Bool) : (s.setBsb b l).segCount = s.segCount := by cases b <;> rfl
@[simp] theorem State.setBsb_dataRam (s : State) (b : Buf) (l : List Bool) : (s.setBsb b l).dataRam = s.dataRam := by cases b <;> rfl
@[simp] theorem State.setBsb_frameRam (s : State) (b : Buf) (l : List Bool) : (s.setBsb b l).frameRam = s.frameRam := by cases b <;> rfl
@[simp] theorem State.setBsb_candRam (s : State) (b : Buf) (l : List Bool) : (s.setBsb b l).candRam = s.candRam := by cases b <;> rfl
@[simp] theorem State.setBsb_symRam (s : State) (b : Buf) (l : List Bool) : (s.setBsb b l).symRam = s.symRam := by cases b <;> rfl
@[simp] theorem State.setBsb_draws (s : State) (b : Buf) (l : List Bool) : (s.setBsb b l).draws = s.draws := by cases b <;> rfl
@[simp] theorem State.setBsb_rstLow (s : State) (b : Buf) (l : List Bool) : (s.setBsb b l).rstLow = s.rstLow := by cases b <;> rfl
@[simp] theorem State.setBsb_hostQueue (s : State) (b : Buf) (l : List Bool) : (s.setBsb b l).hostQueue = s.hostQueue := by cases b <;> rfl
@[simp] theorem State.setBsb_response (s : State) (b : Buf) (l : List Bool) : (s.setBsb b l).response = s.response := by cases b <;> rfl

/-! ### writeRam -/

@[simp] theorem State.writeRam_params (s : State) (r : Ram) (a : Nat) (vs : List Byte) : (s.writeRam r a vs).params = s.params := by cases r <;> rfl
@[simp] theorem State.writeRam_version (s : State) (r : Ram) (a : Nat) (vs : List Byte) : (s.writeRam r a vs).version = s.version := by cases r <;> rfl
@[simp] theorem State.writeRam_level (s : State) (r : Ram) (a : Nat) (vs : List Byte) : (s.writeRam r a vs).level = s.level := by cases r <;> rfl
@[simp] theorem State.writeRam_arg0 (s : State) (r : Ram) (a : Nat) (vs : List Byte) : (s.writeRam r a vs).arg0 = s.arg0 := by cases r <;> rfl
@[simp] theorem State.writeRam_arg1 (s : State) (r : Ram) (a : Nat) (vs : List Byte) : (s.writeRam r a vs).arg1 = s.arg1 := by cases r <;> rfl
@[simp] theorem State.writeRam_arg2 (s : State) (r : Ram) (a : Nat) (vs : List Byte) : (s.writeRam r a vs).arg2 = s.arg2 := by cases r <;> rfl
@[simp] theorem State.writeRam_arg3 (s : State) (r : Ram) (a : Nat) (vs : List Byte) : (s.writeRam r a vs).arg3 = s.arg3 := by cases r <;> rfl
@[simp] theorem State.writeRam_res (s : State) (r : Ram) (a : Nat) (vs : List Byte) : (s.writeRam r a vs).res = s.res := by cases r <;> rfl
@[simp] theorem State.writeRam_status (s : State) (r : Ram) (a : Nat) (vs : List Byte) : (s.writeRam r a vs).status = s.status := by cases r <;> rfl
@[simp] theorem State.writeRam_pending (s : State) (r : Ram) (a : Nat) (vs : List Byte) : (s.writeRam r a vs).pending = s.pending := by cases r <;> rfl
@[simp] theorem State.writeRam_bsb0 (s : State) (r : Ram) (a : Nat) (vs : List Byte) : (s.writeRam r a vs).bsb0 = s.bsb0 := by cases r <;> rfl
@[simp] theorem State.writeRam_bsb1 (s : State) (r : Ram) (a : Nat) (vs : List Byte) : (s.writeRam r a vs).bsb1 = s.bsb1 := by cases r <;> rfl
@[simp] theorem State.writeRam_segs (s : State) (r : Ram) (a : Nat) (vs : List Byte) : (s.writeRam r a vs).segs = s.segs := by cases r <;> rfl
@[simp] theorem State.writeRam_segCount (s : State) (r : Ram) (a : Nat) (vs : List Byte) : (s.writeRam r a vs).segCount = s.segCount := by cases r <;> rfl
@[simp] theorem State.writeRam_draws (s : State) (r : Ram) (a : Nat) (vs : List Byte) : (s.writeRam r a vs).draws = s.draws := by cases r <;> rfl
@[simp] theorem State.writeRam_rstLow (s : State) (r : Ram) (a : Nat) (vs : List Byte) : (s.writeRam r a vs).rstLow = s.rstLow := by cases r <;> rfl
@[simp] theorem State.writeRam_hostQueue (s : State) (r : Ram) (a : Nat) (vs : List Byte) : (s.writeRam r a vs).hostQueue = s.hostQueue := by cases r <;> rfl
@[simp] theorem State.writeRam_response (s : State) (r : Ram) (a : Nat) (vs : List Byte) : (s.writeRam r a vs).response = s.response := by cases r <;> rfl

/-! ### writeRamEach -/

@[simp] theorem State.writeRamEach_params (s : State) (r : Ram) (cs : List (Nat × Byte)) : (s.writeRamEach r cs).params = s.params := by cases r <;> rfl
@[simp] theorem State.writeRamEach_version (s : State) (r : Ram) (cs : List (Nat × Byte)) : (s.writeRamEach r cs).version = s.version := by cases r <;> rfl
@[simp] theorem State.writeRamEach_level (s : State) (r : Ram) (cs : List (Nat × Byte)) : (s.writeRamEach r cs).level = s.level := by cases r <;> rfl
@[simp] theorem State.writeRamEach_arg0 (s : State) (r : Ram) (cs : List (Nat × Byte)) : (s.writeRamEach r cs).arg0 = s.arg0 := by cases r <;> rfl
@[simp] theorem State.writeRamEach_arg1 (s : State) (r : Ram) (cs : List (Nat × Byte)) : (s.writeRamEach r cs).arg1 = s.arg1 := by cases r <;> rfl
@[simp] theorem State.writeRamEach_arg2 (s : State) (r : Ram) (cs : List (Nat × Byte)) : (s.writeRamEach r cs).arg2 = s.arg2 := by cases r <;> rfl
@[simp] theorem State.writeRamEach_arg3 (s : State) (r : Ram) (cs : List (Nat × Byte)) : (s.writeRamEach r cs).arg3 = s.arg3 := by cases r <;> rfl
@[simp] theorem State.writeRamEach_res (s : State) (r : Ram) (cs : List (Nat × Byte)) : (s.writeRamEach r cs).res = s.res := by cases r <;> rfl
@[simp] theorem State.writeRamEach_status (s : State) (r : Ram) (cs : List (Nat × Byte)) : (s.writeRamEach r cs).status = s.status := by cases r <;> rfl
@[simp] theorem State.writeRamEach_pending (s : State) (r : Ram) (cs : List (Nat × Byte)) : (s.writeRamEach r cs).pending = s.pending := by cases r <;> rfl
@[simp] theorem State.writeRamEach_bsb0 (s : State) (r : Ram) (cs : List (Nat × Byte)) : (s.writeRamEach r cs).bsb0 = s.bsb0 := by cases r <;> rfl
@[simp] theorem State.writeRamEach_bsb1 (s : State) (r : Ram) (cs : List (Nat × Byte)) : (s.writeRamEach r cs).bsb1 = s.bsb1 := by cases r <;> rfl
@[simp] theorem State.writeRamEach_segs (s : State) (r : Ram) (cs : List (Nat × Byte)) : (s.writeRamEach r cs).segs = s.segs := by cases r <;> rfl
@[simp] theorem State.writeRamEach_segCount (s : State) (r : Ram) (cs : List (Nat × Byte)) : (s.writeRamEach r cs).segCount = s.segCount := by cases r <;> rfl
@[simp] theorem State.writeRamEach_draws (s : State) (r : Ram) (cs : List (Nat × Byte)) : (s.writeRamEach r cs).draws = s.draws := by cases r <;> rfl
@[simp] theorem State.writeRamEach_rstLow (s : State) (r : Ram) (cs : List (Nat × Byte)) : (s.writeRamEach r cs).rstLow = s.rstLow := by cases r <;> rfl
@[simp] theorem State.writeRamEach_hostQueue (s : State) (r : Ram) (cs : List (Nat × Byte)) : (s.writeRamEach r cs).hostQueue = s.hostQueue := by cases r <;> rfl
@[simp] theorem State.writeRamEach_response (s : State) (r : Ram) (cs : List (Nat × Byte)) : (s.writeRamEach r cs).response = s.response := by cases r <;> rfl

/-! ### writeSegs -/

@[simp] theorem State.writeSegs_params (s : State) (out : List SegEntry) : (s.writeSegs out).params = s.params := rfl
@[simp] theorem State.writeSegs_version (s : State) (out : List SegEntry) : (s.writeSegs out).version = s.version := rfl
@[simp] theorem State.writeSegs_level (s : State) (out : List SegEntry) : (s.writeSegs out).level = s.level := rfl
@[simp] theorem State.writeSegs_arg0 (s : State) (out : List SegEntry) : (s.writeSegs out).arg0 = s.arg0 := rfl
@[simp] theorem State.writeSegs_arg1 (s : State) (out : List SegEntry) : (s.writeSegs out).arg1 = s.arg1 := rfl
@[simp] theorem State.writeSegs_arg2 (s : State) (out : List SegEntry) : (s.writeSegs out).arg2 = s.arg2 := rfl
@[simp] theorem State.writeSegs_arg3 (s : State) (out : List SegEntry) : (s.writeSegs out).arg3 = s.arg3 := rfl
@[simp] theorem State.writeSegs_res (s : State) (out : List SegEntry) : (s.writeSegs out).res = s.res := rfl
@[simp] theorem State.writeSegs_status (s : State) (out : List SegEntry) : (s.writeSegs out).status = s.status := rfl
@[simp] theorem State.writeSegs_pending (s : State) (out : List SegEntry) : (s.writeSegs out).pending = s.pending := rfl
@[simp] theorem State.writeSegs_bsb0 (s : State) (out : List SegEntry) : (s.writeSegs out).bsb0 = s.bsb0 := rfl
@[simp] theorem State.writeSegs_bsb1 (s : State) (out : List SegEntry) : (s.writeSegs out).bsb1 = s.bsb1 := rfl
@[simp] theorem State.writeSegs_segs (s : State) (out : List SegEntry) : (s.writeSegs out).segs = out ++ s.segs.drop out.length := rfl
@[simp] theorem State.writeSegs_segCount (s : State) (out : List SegEntry) : (s.writeSegs out).segCount = BitVec.ofNat 32 out.length := rfl
@[simp] theorem State.writeSegs_dataRam (s : State) (out : List SegEntry) : (s.writeSegs out).dataRam = s.dataRam := rfl
@[simp] theorem State.writeSegs_frameRam (s : State) (out : List SegEntry) : (s.writeSegs out).frameRam = s.frameRam := rfl
@[simp] theorem State.writeSegs_candRam (s : State) (out : List SegEntry) : (s.writeSegs out).candRam = s.candRam := rfl
@[simp] theorem State.writeSegs_symRam (s : State) (out : List SegEntry) : (s.writeSegs out).symRam = s.symRam := rfl
@[simp] theorem State.writeSegs_draws (s : State) (out : List SegEntry) : (s.writeSegs out).draws = s.draws := rfl
@[simp] theorem State.writeSegs_rstLow (s : State) (out : List SegEntry) : (s.writeSegs out).rstLow = s.rstLow := rfl
@[simp] theorem State.writeSegs_hostQueue (s : State) (out : List SegEntry) : (s.writeSegs out).hostQueue = s.hostQueue := rfl
@[simp] theorem State.writeSegs_response (s : State) (out : List SegEntry) : (s.writeSegs out).response = s.response := rfl

/-! ### setRes0 -/

@[simp] theorem State.setRes0_params (s : State) (v : Nat) : (s.setRes0 v).params = s.params := rfl
@[simp] theorem State.setRes0_version (s : State) (v : Nat) : (s.setRes0 v).version = s.version := rfl
@[simp] theorem State.setRes0_level (s : State) (v : Nat) : (s.setRes0 v).level = s.level := rfl
@[simp] theorem State.setRes0_arg0 (s : State) (v : Nat) : (s.setRes0 v).arg0 = s.arg0 := rfl
@[simp] theorem State.setRes0_arg1 (s : State) (v : Nat) : (s.setRes0 v).arg1 = s.arg1 := rfl
@[simp] theorem State.setRes0_arg2 (s : State) (v : Nat) : (s.setRes0 v).arg2 = s.arg2 := rfl
@[simp] theorem State.setRes0_arg3 (s : State) (v : Nat) : (s.setRes0 v).arg3 = s.arg3 := rfl
@[simp] theorem State.setRes0_res (s : State) (v : Nat) : (s.setRes0 v).res = { s.res with res0 := BitVec.ofNat 32 v } := rfl
@[simp] theorem State.setRes0_status (s : State) (v : Nat) : (s.setRes0 v).status = s.status := rfl
@[simp] theorem State.setRes0_pending (s : State) (v : Nat) : (s.setRes0 v).pending = s.pending := rfl
@[simp] theorem State.setRes0_bsb0 (s : State) (v : Nat) : (s.setRes0 v).bsb0 = s.bsb0 := rfl
@[simp] theorem State.setRes0_bsb1 (s : State) (v : Nat) : (s.setRes0 v).bsb1 = s.bsb1 := rfl
@[simp] theorem State.setRes0_segs (s : State) (v : Nat) : (s.setRes0 v).segs = s.segs := rfl
@[simp] theorem State.setRes0_segCount (s : State) (v : Nat) : (s.setRes0 v).segCount = s.segCount := rfl
@[simp] theorem State.setRes0_dataRam (s : State) (v : Nat) : (s.setRes0 v).dataRam = s.dataRam := rfl
@[simp] theorem State.setRes0_frameRam (s : State) (v : Nat) : (s.setRes0 v).frameRam = s.frameRam := rfl
@[simp] theorem State.setRes0_candRam (s : State) (v : Nat) : (s.setRes0 v).candRam = s.candRam := rfl
@[simp] theorem State.setRes0_symRam (s : State) (v : Nat) : (s.setRes0 v).symRam = s.symRam := rfl
@[simp] theorem State.setRes0_draws (s : State) (v : Nat) : (s.setRes0 v).draws = s.draws := rfl
@[simp] theorem State.setRes0_rstLow (s : State) (v : Nat) : (s.setRes0 v).rstLow = s.rstLow := rfl
@[simp] theorem State.setRes0_hostQueue (s : State) (v : Nat) : (s.setRes0 v).hostQueue = s.hostQueue := rfl
@[simp] theorem State.setRes0_response (s : State) (v : Nat) : (s.setRes0 v).response = s.response := rfl

/-! ### setRes012 -/

@[simp] theorem State.setRes012_params (s : State) (v0 v1 v2 : Nat) : (s.setRes012 v0 v1 v2).params = s.params := rfl
@[simp] theorem State.setRes012_version (s : State) (v0 v1 v2 : Nat) : (s.setRes012 v0 v1 v2).version = s.version := rfl
@[simp] theorem State.setRes012_level (s : State) (v0 v1 v2 : Nat) : (s.setRes012 v0 v1 v2).level = s.level := rfl
@[simp] theorem State.setRes012_arg0 (s : State) (v0 v1 v2 : Nat) : (s.setRes012 v0 v1 v2).arg0 = s.arg0 := rfl
@[simp] theorem State.setRes012_arg1 (s : State) (v0 v1 v2 : Nat) : (s.setRes012 v0 v1 v2).arg1 = s.arg1 := rfl
@[simp] theorem State.setRes012_arg2 (s : State) (v0 v1 v2 : Nat) : (s.setRes012 v0 v1 v2).arg2 = s.arg2 := rfl
@[simp] theorem State.setRes012_arg3 (s : State) (v0 v1 v2 : Nat) : (s.setRes012 v0 v1 v2).arg3 = s.arg3 := rfl
@[simp] theorem State.setRes012_res (s : State) (v0 v1 v2 : Nat) : (s.setRes012 v0 v1 v2).res = { s.res with res0 := BitVec.ofNat 32 v0, res1 := BitVec.ofNat 32 v1, res2 := BitVec.ofNat 32 v2 } := rfl
@[simp] theorem State.setRes012_status (s : State) (v0 v1 v2 : Nat) : (s.setRes012 v0 v1 v2).status = s.status := rfl
@[simp] theorem State.setRes012_pending (s : State) (v0 v1 v2 : Nat) : (s.setRes012 v0 v1 v2).pending = s.pending := rfl
@[simp] theorem State.setRes012_bsb0 (s : State) (v0 v1 v2 : Nat) : (s.setRes012 v0 v1 v2).bsb0 = s.bsb0 := rfl
@[simp] theorem State.setRes012_bsb1 (s : State) (v0 v1 v2 : Nat) : (s.setRes012 v0 v1 v2).bsb1 = s.bsb1 := rfl
@[simp] theorem State.setRes012_segs (s : State) (v0 v1 v2 : Nat) : (s.setRes012 v0 v1 v2).segs = s.segs := rfl
@[simp] theorem State.setRes012_segCount (s : State) (v0 v1 v2 : Nat) : (s.setRes012 v0 v1 v2).segCount = s.segCount := rfl
@[simp] theorem State.setRes012_dataRam (s : State) (v0 v1 v2 : Nat) : (s.setRes012 v0 v1 v2).dataRam = s.dataRam := rfl
@[simp] theorem State.setRes012_frameRam (s : State) (v0 v1 v2 : Nat) : (s.setRes012 v0 v1 v2).frameRam = s.frameRam := rfl
@[simp] theorem State.setRes012_candRam (s : State) (v0 v1 v2 : Nat) : (s.setRes012 v0 v1 v2).candRam = s.candRam := rfl
@[simp] theorem State.setRes012_symRam (s : State) (v0 v1 v2 : Nat) : (s.setRes012 v0 v1 v2).symRam = s.symRam := rfl
@[simp] theorem State.setRes012_draws (s : State) (v0 v1 v2 : Nat) : (s.setRes012 v0 v1 v2).draws = s.draws := rfl
@[simp] theorem State.setRes012_rstLow (s : State) (v0 v1 v2 : Nat) : (s.setRes012 v0 v1 v2).rstLow = s.rstLow := rfl
@[simp] theorem State.setRes012_hostQueue (s : State) (v0 v1 v2 : Nat) : (s.setRes012 v0 v1 v2).hostQueue = s.hostQueue := rfl
@[simp] theorem State.setRes012_response (s : State) (v0 v1 v2 : Nat) : (s.setRes012 v0 v1 v2).response = s.response := rfl

/-! ### setRes0to6 -/

@[simp] theorem State.setRes0to6_params (s : State) (v0 v1 v2 v3 v4 v5 v6 : Nat) : (s.setRes0to6 v0 v1 v2 v3 v4 v5 v6).params = s.params := rfl
@[simp] theorem State.setRes0to6_version (s : State) (v0 v1 v2 v3 v4 v5 v6 : Nat) : (s.setRes0to6 v0 v1 v2 v3 v4 v5 v6).version = s.version := rfl
@[simp] theorem State.setRes0to6_level (s : State) (v0 v1 v2 v3 v4 v5 v6 : Nat) : (s.setRes0to6 v0 v1 v2 v3 v4 v5 v6).level = s.level := rfl
@[simp] theorem State.setRes0to6_arg0 (s : State) (v0 v1 v2 v3 v4 v5 v6 : Nat) : (s.setRes0to6 v0 v1 v2 v3 v4 v5 v6).arg0 = s.arg0 := rfl
@[simp] theorem State.setRes0to6_arg1 (s : State) (v0 v1 v2 v3 v4 v5 v6 : Nat) : (s.setRes0to6 v0 v1 v2 v3 v4 v5 v6).arg1 = s.arg1 := rfl
@[simp] theorem State.setRes0to6_arg2 (s : State) (v0 v1 v2 v3 v4 v5 v6 : Nat) : (s.setRes0to6 v0 v1 v2 v3 v4 v5 v6).arg2 = s.arg2 := rfl
@[simp] theorem State.setRes0to6_arg3 (s : State) (v0 v1 v2 v3 v4 v5 v6 : Nat) : (s.setRes0to6 v0 v1 v2 v3 v4 v5 v6).arg3 = s.arg3 := rfl
@[simp] theorem State.setRes0to6_res (s : State) (v0 v1 v2 v3 v4 v5 v6 : Nat) : (s.setRes0to6 v0 v1 v2 v3 v4 v5 v6).res = ⟨BitVec.ofNat 32 v0, BitVec.ofNat 32 v1, BitVec.ofNat 32 v2, BitVec.ofNat 32 v3, BitVec.ofNat 32 v4, BitVec.ofNat 32 v5, BitVec.ofNat 32 v6, s.res.res7⟩ := rfl
@[simp] theorem State.setRes0to6_status (s : State) (v0 v1 v2 v3 v4 v5 v6 : Nat) : (s.setRes0to6 v0 v1 v2 v3 v4 v5 v6).status = s.status := rfl
@[simp] theorem State.setRes0to6_pending (s : State) (v0 v1 v2 v3 v4 v5 v6 : Nat) : (s.setRes0to6 v0 v1 v2 v3 v4 v5 v6).pending = s.pending := rfl
@[simp] theorem State.setRes0to6_bsb0 (s : State) (v0 v1 v2 v3 v4 v5 v6 : Nat) : (s.setRes0to6 v0 v1 v2 v3 v4 v5 v6).bsb0 = s.bsb0 := rfl
@[simp] theorem State.setRes0to6_bsb1 (s : State) (v0 v1 v2 v3 v4 v5 v6 : Nat) : (s.setRes0to6 v0 v1 v2 v3 v4 v5 v6).bsb1 = s.bsb1 := rfl
@[simp] theorem State.setRes0to6_segs (s : State) (v0 v1 v2 v3 v4 v5 v6 : Nat) : (s.setRes0to6 v0 v1 v2 v3 v4 v5 v6).segs = s.segs := rfl
@[simp] theorem State.setRes0to6_segCount (s : State) (v0 v1 v2 v3 v4 v5 v6 : Nat) : (s.setRes0to6 v0 v1 v2 v3 v4 v5 v6).segCount = s.segCount := rfl
@[simp] theorem State.setRes0to6_dataRam (s : State) (v0 v1 v2 v3 v4 v5 v6 : Nat) : (s.setRes0to6 v0 v1 v2 v3 v4 v5 v6).dataRam = s.dataRam := rfl
@[simp] theorem State.setRes0to6_frameRam (s : State) (v0 v1 v2 v3 v4 v5 v6 : Nat) : (s.setRes0to6 v0 v1 v2 v3 v4 v5 v6).frameRam = s.frameRam := rfl
@[simp] theorem State.setRes0to6_candRam (s : State) (v0 v1 v2 v3 v4 v5 v6 : Nat) : (s.setRes0to6 v0 v1 v2 v3 v4 v5 v6).candRam = s.candRam := rfl
@[simp] theorem State.setRes0to6_symRam (s : State) (v0 v1 v2 v3 v4 v5 v6 : Nat) : (s.setRes0to6 v0 v1 v2 v3 v4 v5 v6).symRam = s.symRam := rfl
@[simp] theorem State.setRes0to6_draws (s : State) (v0 v1 v2 v3 v4 v5 v6 : Nat) : (s.setRes0to6 v0 v1 v2 v3 v4 v5 v6).draws = s.draws := rfl
@[simp] theorem State.setRes0to6_rstLow (s : State) (v0 v1 v2 v3 v4 v5 v6 : Nat) : (s.setRes0to6 v0 v1 v2 v3 v4 v5 v6).rstLow = s.rstLow := rfl
@[simp] theorem State.setRes0to6_hostQueue (s : State) (v0 v1 v2 v3 v4 v5 v6 : Nat) : (s.setRes0to6 v0 v1 v2 v3 v4 v5 v6).hostQueue = s.hostQueue := rfl
@[simp] theorem State.setRes0to6_response (s : State) (v0 v1 v2 v3 v4 v5 v6 : Nat) : (s.setRes0to6 v0 v1 v2 v3 v4 v5 v6).response = s.response := rfl

/-! ### completeOk -/

@[simp] theorem State.completeOk_params (s : State) : (s.completeOk).params = s.params := rfl
@[simp] theorem State.completeOk_version (s : State) : (s.completeOk).version = s.version := rfl
@[simp] theorem State.completeOk_level (s : State) : (s.completeOk).level = s.level := rfl
@[simp] theorem State.completeOk_arg0 (s : State) : (s.completeOk).arg0 = s.arg0 := rfl
@[simp] theorem State.completeOk_arg1 (s : State) : (s.completeOk).arg1 = s.arg1 := rfl
@[simp] theorem State.completeOk_arg2 (s : State) : (s.completeOk).arg2 = s.arg2 := rfl
@[simp] theorem State.completeOk_arg3 (s : State) : (s.completeOk).arg3 = s.arg3 := rfl
@[simp] theorem State.completeOk_res (s : State) : (s.completeOk).res = s.res := rfl
@[simp] theorem State.completeOk_status (s : State) : (s.completeOk).status = ⟨true, false, 0#8, s.status.busErr, s.status.anyErr⟩ := rfl
@[simp] theorem State.completeOk_pending (s : State) : (s.completeOk).pending = none := rfl
@[simp] theorem State.completeOk_bsb0 (s : State) : (s.completeOk).bsb0 = s.bsb0 := rfl
@[simp] theorem State.completeOk_bsb1 (s : State) : (s.completeOk).bsb1 = s.bsb1 := rfl
@[simp] theorem State.completeOk_segs (s : State) : (s.completeOk).segs = s.segs := rfl
@[simp] theorem State.completeOk_segCount (s : State) : (s.completeOk).segCount = s.segCount := rfl
@[simp] theorem State.completeOk_dataRam (s : State) : (s.completeOk).dataRam = s.dataRam := rfl
@[simp] theorem State.completeOk_frameRam (s : State) : (s.completeOk).frameRam = s.frameRam := rfl
@[simp] theorem State.completeOk_candRam (s : State) : (s.completeOk).candRam = s.candRam := rfl
@[simp] theorem State.completeOk_symRam (s : State) : (s.completeOk).symRam = s.symRam := rfl
@[simp] theorem State.completeOk_draws (s : State) : (s.completeOk).draws = s.draws := rfl
@[simp] theorem State.completeOk_rstLow (s : State) : (s.completeOk).rstLow = s.rstLow := rfl
@[simp] theorem State.completeOk_hostQueue (s : State) : (s.completeOk).hostQueue = s.hostQueue := rfl
@[simp] theorem State.completeOk_response (s : State) : (s.completeOk).response = s.response := rfl

/-! ### raiseError -/

@[simp] theorem State.raiseError_params (s : State) (e : CmdError) : (s.raiseError e).params = s.params := rfl
@[simp] theorem State.raiseError_version (s : State) (e : CmdError) : (s.raiseError e).version = s.version := rfl
@[simp] theorem State.raiseError_level (s : State) (e : CmdError) : (s.raiseError e).level = s.level := rfl
@[simp] theorem State.raiseError_arg0 (s : State) (e : CmdError) : (s.raiseError e).arg0 = s.arg0 := rfl
@[simp] theorem State.raiseError_arg1 (s : State) (e : CmdError) : (s.raiseError e).arg1 = s.arg1 := rfl
@[simp] theorem State.raiseError_arg2 (s : State) (e : CmdError) : (s.raiseError e).arg2 = s.arg2 := rfl
@[simp] theorem State.raiseError_arg3 (s : State) (e : CmdError) : (s.raiseError e).arg3 = s.arg3 := rfl
@[simp] theorem State.raiseError_res (s : State) (e : CmdError) : (s.raiseError e).res = s.res := rfl
@[simp] theorem State.raiseError_status (s : State) (e : CmdError) : (s.raiseError e).status = ⟨true, true, e.code, s.status.busErr, true⟩ := rfl
@[simp] theorem State.raiseError_pending (s : State) (e : CmdError) : (s.raiseError e).pending = none := rfl
@[simp] theorem State.raiseError_bsb0 (s : State) (e : CmdError) : (s.raiseError e).bsb0 = s.bsb0 := rfl
@[simp] theorem State.raiseError_bsb1 (s : State) (e : CmdError) : (s.raiseError e).bsb1 = s.bsb1 := rfl
@[simp] theorem State.raiseError_segs (s : State) (e : CmdError) : (s.raiseError e).segs = s.segs := rfl
@[simp] theorem State.raiseError_segCount (s : State) (e : CmdError) : (s.raiseError e).segCount = s.segCount := rfl
@[simp] theorem State.raiseError_dataRam (s : State) (e : CmdError) : (s.raiseError e).dataRam = s.dataRam := rfl
@[simp] theorem State.raiseError_frameRam (s : State) (e : CmdError) : (s.raiseError e).frameRam = s.frameRam := rfl
@[simp] theorem State.raiseError_candRam (s : State) (e : CmdError) : (s.raiseError e).candRam = s.candRam := rfl
@[simp] theorem State.raiseError_symRam (s : State) (e : CmdError) : (s.raiseError e).symRam = s.symRam := rfl
@[simp] theorem State.raiseError_draws (s : State) (e : CmdError) : (s.raiseError e).draws = s.draws := rfl
@[simp] theorem State.raiseError_rstLow (s : State) (e : CmdError) : (s.raiseError e).rstLow = s.rstLow := rfl
@[simp] theorem State.raiseError_hostQueue (s : State) (e : CmdError) : (s.raiseError e).hostQueue = s.hostQueue := rfl
@[simp] theorem State.raiseError_response (s : State) (e : CmdError) : (s.raiseError e).response = s.response := rfl

/-! ### issue -/

@[simp] theorem State.issue_params (s : State) (w : Word) : (s.issue w).params = s.params := rfl
@[simp] theorem State.issue_version (s : State) (w : Word) : (s.issue w).version = s.version := rfl
@[simp] theorem State.issue_level (s : State) (w : Word) : (s.issue w).level = s.level := rfl
@[simp] theorem State.issue_arg0 (s : State) (w : Word) : (s.issue w).arg0 = s.arg0 := rfl
@[simp] theorem State.issue_arg1 (s : State) (w : Word) : (s.issue w).arg1 = s.arg1 := rfl
@[simp] theorem State.issue_arg2 (s : State) (w : Word) : (s.issue w).arg2 = s.arg2 := rfl
@[simp] theorem State.issue_arg3 (s : State) (w : Word) : (s.issue w).arg3 = s.arg3 := rfl
@[simp] theorem State.issue_res (s : State) (w : Word) : (s.issue w).res = s.res := rfl
@[simp] theorem State.issue_status (s : State) (w : Word) : (s.issue w).status = ⟨false, false, 0#8, s.status.busErr, s.status.anyErr⟩ := rfl
@[simp] theorem State.issue_pending (s : State) (w : Word) : (s.issue w).pending = some w := rfl
@[simp] theorem State.issue_bsb0 (s : State) (w : Word) : (s.issue w).bsb0 = s.bsb0 := rfl
@[simp] theorem State.issue_bsb1 (s : State) (w : Word) : (s.issue w).bsb1 = s.bsb1 := rfl
@[simp] theorem State.issue_segs (s : State) (w : Word) : (s.issue w).segs = s.segs := rfl
@[simp] theorem State.issue_segCount (s : State) (w : Word) : (s.issue w).segCount = s.segCount := rfl
@[simp] theorem State.issue_dataRam (s : State) (w : Word) : (s.issue w).dataRam = s.dataRam := rfl
@[simp] theorem State.issue_frameRam (s : State) (w : Word) : (s.issue w).frameRam = s.frameRam := rfl
@[simp] theorem State.issue_candRam (s : State) (w : Word) : (s.issue w).candRam = s.candRam := rfl
@[simp] theorem State.issue_symRam (s : State) (w : Word) : (s.issue w).symRam = s.symRam := rfl
@[simp] theorem State.issue_draws (s : State) (w : Word) : (s.issue w).draws = s.draws := rfl
@[simp] theorem State.issue_rstLow (s : State) (w : Word) : (s.issue w).rstLow = s.rstLow := rfl
@[simp] theorem State.issue_hostQueue (s : State) (w : Word) : (s.issue w).hostQueue = s.hostQueue := rfl
@[simp] theorem State.issue_response (s : State) (w : Word) : (s.issue w).response = s.response := rfl

/-! ### Accessors through the updates -/

@[simp] theorem State.setRam_ram_same (s : State) (r : Ram) (m : Memory) : (s.setRam r m).ram r = m := by cases r <;> rfl

theorem State.setRam_ram_other (s : State) (r q : Ram) (m : Memory) (h : q ≠ r) : (s.setRam r m).ram q = s.ram q := by
  cases r <;> cases q <;> first | rfl | exact absurd rfl h

@[simp] theorem State.setBsb_bsb_same (s : State) (b : Buf) (l : List Bool) : (s.setBsb b l).bsb b = l := by cases b <;> rfl

theorem State.setBsb_bsb_other (s : State) (b c : Buf) (l : List Bool) (h : c ≠ b) : (s.setBsb b l).bsb c = s.bsb c := by
  cases b <;> cases c <;> first | rfl | exact absurd rfl h

@[simp] theorem State.setBsb_ram (s : State) (b : Buf) (l : List Bool) (q : Ram) : (s.setBsb b l).ram q = s.ram q := by cases b <;> cases q <;> rfl
@[simp] theorem State.writeSegs_ram (s : State) (out : List SegEntry) (q : Ram) : (s.writeSegs out).ram q = s.ram q := by cases q <;> rfl
@[simp] theorem State.setRes0_ram (s : State) (v : Nat) (q : Ram) : (s.setRes0 v).ram q = s.ram q := by cases q <;> rfl
@[simp] theorem State.setRes012_ram (s : State) (v0 v1 v2 : Nat) (q : Ram) : (s.setRes012 v0 v1 v2).ram q = s.ram q := by cases q <;> rfl
@[simp] theorem State.setRes0to6_ram (s : State) (v0 v1 v2 v3 v4 v5 v6 : Nat) (q : Ram) : (s.setRes0to6 v0 v1 v2 v3 v4 v5 v6).ram q = s.ram q := by cases q <;> rfl
@[simp] theorem State.completeOk_ram (s : State) (q : Ram) : (s.completeOk).ram q = s.ram q := by cases q <;> rfl
@[simp] theorem State.raiseError_ram (s : State) (e : CmdError) (q : Ram) : (s.raiseError e).ram q = s.ram q := by cases q <;> rfl
@[simp] theorem State.issue_ram (s : State) (w : Word) (q : Ram) : (s.issue w).ram q = s.ram q := by cases q <;> rfl

@[simp] theorem State.setRam_bsb (s : State) (r : Ram) (m : Memory) (c : Buf) : (s.setRam r m).bsb c = s.bsb c := by cases r <;> cases c <;> rfl
@[simp] theorem State.writeRam_bsb (s : State) (r : Ram) (a : Nat) (vs : List Byte) (c : Buf) : (s.writeRam r a vs).bsb c = s.bsb c := by cases r <;> cases c <;> rfl
@[simp] theorem State.writeRamEach_bsb (s : State) (r : Ram) (cs : List (Nat × Byte)) (c : Buf) : (s.writeRamEach r cs).bsb c = s.bsb c := by cases r <;> cases c <;> rfl
@[simp] theorem State.writeSegs_bsb (s : State) (out : List SegEntry) (c : Buf) : (s.writeSegs out).bsb c = s.bsb c := by cases c <;> rfl
@[simp] theorem State.setRes0_bsb (s : State) (v : Nat) (c : Buf) : (s.setRes0 v).bsb c = s.bsb c := by cases c <;> rfl
@[simp] theorem State.setRes012_bsb (s : State) (v0 v1 v2 : Nat) (c : Buf) : (s.setRes012 v0 v1 v2).bsb c = s.bsb c := by cases c <;> rfl
@[simp] theorem State.setRes0to6_bsb (s : State) (v0 v1 v2 v3 v4 v5 v6 : Nat) (c : Buf) : (s.setRes0to6 v0 v1 v2 v3 v4 v5 v6).bsb c = s.bsb c := by cases c <;> rfl
@[simp] theorem State.completeOk_bsb (s : State) (c : Buf) : (s.completeOk).bsb c = s.bsb c := by cases c <;> rfl
@[simp] theorem State.raiseError_bsb (s : State) (e : CmdError) (c : Buf) : (s.raiseError e).bsb c = s.bsb c := by cases c <;> rfl
@[simp] theorem State.issue_bsb (s : State) (w : Word) (c : Buf) : (s.issue w).bsb c = s.bsb c := by cases c <;> rfl

@[simp] theorem State.setBsb_ramByte (s : State) (b : Buf) (l : List Bool) (q : Ram) (x : Nat) : (s.setBsb b l).ramByte q x = s.ramByte q x := by
  simp [State.ramByte]
@[simp] theorem State.writeSegs_ramByte (s : State) (out : List SegEntry) (q : Ram) (x : Nat) : (s.writeSegs out).ramByte q x = s.ramByte q x := by
  simp [State.ramByte]
@[simp] theorem State.setRes0_ramByte (s : State) (v : Nat) (q : Ram) (x : Nat) : (s.setRes0 v).ramByte q x = s.ramByte q x := by
  simp [State.ramByte]
@[simp] theorem State.setRes012_ramByte (s : State) (v0 v1 v2 : Nat) (q : Ram) (x : Nat) : (s.setRes012 v0 v1 v2).ramByte q x = s.ramByte q x := by
  simp [State.ramByte]
@[simp] theorem State.setRes0to6_ramByte (s : State) (v0 v1 v2 v3 v4 v5 v6 : Nat) (q : Ram) (x : Nat) : (s.setRes0to6 v0 v1 v2 v3 v4 v5 v6).ramByte q x = s.ramByte q x := by
  simp [State.ramByte]
@[simp] theorem State.completeOk_ramByte (s : State) (q : Ram) (x : Nat) : (s.completeOk).ramByte q x = s.ramByte q x := by
  simp [State.ramByte]
@[simp] theorem State.raiseError_ramByte (s : State) (e : CmdError) (q : Ram) (x : Nat) : (s.raiseError e).ramByte q x = s.ramByte q x := by
  simp [State.ramByte]
@[simp] theorem State.issue_ramByte (s : State) (w : Word) (q : Ram) (x : Nat) : (s.issue w).ramByte q x = s.ramByte q x := by
  simp [State.ramByte]

@[simp] theorem State.setRam_segEntry (s : State) (r : Ram) (m : Memory) (j : Nat) : (s.setRam r m).segEntry j = s.segEntry j := by
  simp [State.segEntry]
@[simp] theorem State.setBsb_segEntry (s : State) (b : Buf) (l : List Bool) (j : Nat) : (s.setBsb b l).segEntry j = s.segEntry j := by
  simp [State.segEntry]
@[simp] theorem State.writeRam_segEntry (s : State) (r : Ram) (a : Nat) (vs : List Byte) (j : Nat) : (s.writeRam r a vs).segEntry j = s.segEntry j := by
  simp [State.segEntry]
@[simp] theorem State.writeRamEach_segEntry (s : State) (r : Ram) (cs : List (Nat × Byte)) (j : Nat) : (s.writeRamEach r cs).segEntry j = s.segEntry j := by
  simp [State.segEntry]
@[simp] theorem State.setRes0_segEntry (s : State) (v : Nat) (j : Nat) : (s.setRes0 v).segEntry j = s.segEntry j := by
  simp [State.segEntry]
@[simp] theorem State.setRes012_segEntry (s : State) (v0 v1 v2 : Nat) (j : Nat) : (s.setRes012 v0 v1 v2).segEntry j = s.segEntry j := by
  simp [State.segEntry]
@[simp] theorem State.setRes0to6_segEntry (s : State) (v0 v1 v2 v3 v4 v5 v6 : Nat) (j : Nat) : (s.setRes0to6 v0 v1 v2 v3 v4 v5 v6).segEntry j = s.segEntry j := by
  simp [State.segEntry]
@[simp] theorem State.completeOk_segEntry (s : State) (j : Nat) : (s.completeOk).segEntry j = s.segEntry j := by
  simp [State.segEntry]
@[simp] theorem State.raiseError_segEntry (s : State) (e : CmdError) (j : Nat) : (s.raiseError e).segEntry j = s.segEntry j := by
  simp [State.segEntry]
@[simp] theorem State.issue_segEntry (s : State) (w : Word) (j : Nat) : (s.issue w).segEntry j = s.segEntry j := by
  simp [State.segEntry]

end Sys2Proof.Machine
end

