-- ==== Sys2Proof/Laws/Memory.lean ====
section
/-! SUPPORT. The laws of a memory: what a read finds after a write, and that every memory operation keeps the canonical form. -/

namespace Sys2Proof.Machine

/-! ### Runs -/

@[simp] theorem Memory.find_nil (x : Nat) : Memory.find [] x = none := rfl

theorem Memory.find_cons (a : Nat) (v : Byte) (m : Memory) (x : Nat) :
    Memory.find ((a, v) :: m) x = if x = a then some v else Memory.find m x := by
  by_cases h : x = a
  · simp [Memory.find, List.lookup, h]
  · have hb : (x == a) = false := by simpa using h
    simp [Memory.find, List.lookup, h, hb]

theorem Memory.find_append (m n : Memory) (x : Nat) :
    Memory.find (m ++ n) x = (Memory.find m x).or (Memory.find n x) := by
  induction m with
  | nil => simp
  | cons c m ih =>
    obtain ⟨a, v⟩ := c
    simp only [List.cons_append, Memory.find_cons, ih]
    split <;> simp

theorem Memory.find_filter (m : Memory) (p : Nat → Bool) (x : Nat) :
    Memory.find (m.filter fun c => p c.1) x = if p x then Memory.find m x else none := by
  induction m with
  | nil => simp
  | cons c m ih =>
    obtain ⟨a, v⟩ := c
    by_cases hp : p a
    · rw [List.filter_cons_of_pos (by simpa using hp), Memory.find_cons, ih, Memory.find_cons]
      by_cases hx : x = a
      · simp [hx, hp]
      · simp [hx]
    · rw [List.filter_cons_of_neg (by simpa using hp), ih, Memory.find_cons]
      by_cases hx : x = a
      · simp [hx, hp]
      · simp [hx]

theorem Memory.find_run (a : Nat) (vs : List Byte) (x : Nat) :
    Memory.find (Memory.run a vs) x = if a ≤ x then vs[x - a]? else none := by
  induction vs generalizing a with
  | nil => simp [Memory.run]
  | cons v vs ih =>
    rw [Memory.run, Memory.find_cons, ih]
    by_cases hx : x = a
    · simp [hx]
    · by_cases hl : a ≤ x
      · obtain ⟨k, rfl⟩ : ∃ k, x = a + 1 + k := ⟨x - a - 1, by omega⟩
        have h1 : a + 1 + k - a = k + 1 := by omega
        simp [hx, h1]
        omega
      · simp only [hx, hl, if_false]
        rw [if_neg (by omega)]

/-- What a read finds after a range write: the written byte inside the range, what was there outside it. -/
theorem Memory.find_writeRange (m : Memory) (a : Nat) (vs : List Byte) (x : Nat) :
    (m.writeRange a vs).find x = if a ≤ x ∧ x < a + vs.length then vs[x - a]? else m.find x := by
  rw [Memory.writeRange, Memory.find_append, Memory.find_append,
    Memory.find_filter m (fun k => decide (k < a)), Memory.find_filter m (fun k => decide (a + vs.length ≤ k)), Memory.find_run]
  by_cases h1 : x < a
  · have : ¬ a ≤ x := by omega
    have h2 : ¬ a + vs.length ≤ x := by omega
    simp [h1, this, h2]
  · by_cases h2 : x < a + vs.length
    · have h3 : a ≤ x := by omega
      have h4 : x - a < vs.length := by omega
      simp [h1, h2, h3, h4]
    · have h3 : a ≤ x := by omega
      have h4 : vs.length ≤ x - a := by omega
      have h5 : a + vs.length ≤ x := by omega
      simp [h1, h2, h3, h4, h5]

theorem Memory.find_write (m : Memory) (a : Nat) (v : Byte) (x : Nat) :
    (m.write a v).find x = if x = a then some v else m.find x := by
  rw [Memory.write, Memory.find_writeRange]
  by_cases h : x = a
  · simp [h]
  · rw [if_neg (by simp; omega), if_neg h]

/-- Single-byte writes leave every other offset alone. -/
theorem Memory.find_writeEach_of_not_mem (cs : List (Nat × Byte)) (m : Memory) (x : Nat) (h : ∀ c ∈ cs, c.1 ≠ x) :
    (m.writeEach cs).find x = m.find x := by
  induction cs generalizing m with
  | nil => rfl
  | cons c cs ih =>
    obtain ⟨a, v⟩ := c
    rw [Memory.writeEach, ih _ fun d hd => h d (List.mem_cons_of_mem _ hd), Memory.find_write,
      if_neg fun hx => h (a, v) (List.mem_cons_self ..) hx.symm]

/-- Single-byte writes at distinct offsets: each offset reads what was written to it. -/
theorem Memory.find_writeEach_of_mem (cs : List (Nat × Byte)) (m : Memory) (x : Nat) (v : Byte)
    (hd : (cs.map (·.1)).Nodup) (h : (x, v) ∈ cs) : (m.writeEach cs).find x = some v := by
  induction cs generalizing m with
  | nil => simp at h
  | cons c cs ih =>
    obtain ⟨a, u⟩ := c
    rw [Memory.writeEach]
    simp only [List.map_cons, List.nodup_cons] at hd
    rcases List.mem_cons.1 h with heq | hm
    · obtain ⟨rfl, rfl⟩ := Prod.mk.inj heq
      rw [Memory.find_writeEach_of_not_mem, Memory.find_write, if_pos rfl]
      intro d hdm hdx
      exact hd.1 (List.mem_map.2 ⟨d, hdm, hdx⟩)
    · exact ih _ hd.2 hm

/-! ### The canonical form -/

theorem Memory.wf_nil (size : Nat) : Memory.wf [] size := by simp [Memory.wf]

theorem Memory.run_mem (a : Nat) (vs : List Byte) : ∀ c ∈ Memory.run a vs, a ≤ c.1 ∧ c.1 < a + vs.length := by
  induction vs generalizing a with
  | nil => simp [Memory.run]
  | cons v vs ih =>
    intro c hc
    rcases List.mem_cons.1 hc with rfl | h
    · simp
    · have := ih (a + 1) c h
      simp only [List.length_cons]
      omega

theorem Memory.run_rising (a : Nat) (vs : List Byte) : (Memory.run a vs).Pairwise fun c d => c.1 < d.1 := by
  induction vs generalizing a with
  | nil => simp [Memory.run]
  | cons v vs ih =>
    refine List.pairwise_cons.2 ⟨fun c hc => ?_, ih (a + 1)⟩
    have := Memory.run_mem (a + 1) vs c hc
    simp only
    omega

/-- A range write inside the RAM keeps the canonical form. -/
theorem Memory.wf_writeRange {m : Memory} {size : Nat} (a : Nat) (vs : List Byte) (h : m.wf size)
    (hfit : vs = [] ∨ a + vs.length ≤ size) : (m.writeRange a vs).wf size := by
  obtain ⟨hp, hb⟩ := h
  refine ⟨?_, ?_⟩
  · rw [Memory.writeRange, List.append_assoc, List.pairwise_append, List.pairwise_append]
    refine ⟨hp.filter _, ⟨Memory.run_rising a vs, hp.filter _, ?_⟩, ?_⟩
    · intro c hc d hd
      have h1 := Memory.run_mem a vs c hc
      have h2 := (List.mem_filter.1 hd).2
      simp only [decide_eq_true_eq] at h2
      omega
    · intro c hc d hd
      have h1 := (List.mem_filter.1 hc).2
      simp only [decide_eq_true_eq] at h1
      rcases List.mem_append.1 hd with hd | hd
      · have := Memory.run_mem a vs d hd
        omega
      · have h2 := (List.mem_filter.1 hd).2
        simp only [decide_eq_true_eq] at h2
        omega
  · intro c hc
    rw [Memory.writeRange] at hc
    rcases List.mem_append.1 hc with hc | hc
    · rcases List.mem_append.1 hc with hc | hc
      · exact hb c (List.mem_filter.1 hc).1
      · have := Memory.run_mem a vs c hc
        rcases hfit with rfl | hfit
        · simp [Memory.run] at hc
        · omega
    · exact hb c (List.mem_filter.1 hc).1

/-- Single-byte writes inside the RAM keep the canonical form. -/
theorem Memory.wf_writeEach {m : Memory} {size : Nat} (cs : List (Nat × Byte)) (h : m.wf size)
    (hfit : ∀ c ∈ cs, c.1 < size) : (m.writeEach cs).wf size := by
  induction cs generalizing m with
  | nil => exact h
  | cons c cs ih =>
    obtain ⟨a, v⟩ := c
    refine ih (Memory.wf_writeRange a [v] h (.inr ?_)) fun d hd => hfit d (List.mem_cons_of_mem _ hd)
    have := hfit (a, v) (List.mem_cons_self ..)
    simpa using this

/-- Every RAM of the reset state has the canonical form. -/
theorem State.resetWith_rams_wf (p : Params) (draw : Nat) (q : List HostEvent) (r : Ram) :
    ((State.resetWith p draw q).ram r).wf (ramBytes p r) := by
  cases r <;> exact Memory.wf_nil _

theorem State.reset_rams_wf (r : Ram) : (State.reset.ram r).wf (ramBytes State.reset.params r) :=
  State.resetWith_rams_wf _ _ _ r

end Sys2Proof.Machine
end

