-- ==== Sys2Proof/Laws/Ops.lean ====
section
/-! SUPPORT. One lemma for each shared operation that says once what it can do: RAM reads and writes, appends, packing, and the end of the execution frame. -/

namespace Sys2Proof.Machine

/-! ### RAM reads and writes -/

@[simp] theorem State.readRam_length (s : State) (r : Ram) (a n : Nat) : (s.readRam r a n).length = n := by
  simp [State.readRam]

theorem State.readRam_get (s : State) (r : Ram) (a n i : Nat) (h : i < n) :
    (s.readRam r a n)[i]? = some (s.ramByte r (a + i)) := by
  simp [State.readRam, h]

/-- What one byte reads as after a range write to the same RAM. -/
theorem State.ramByte_writeRam_same (s : State) (r : Ram) (a : Nat) (vs : List Byte) (x : Nat) :
    (s.writeRam r a vs).ramByte r x = if h : a ≤ x ∧ x < a + vs.length then vs[x - a]'(by omega) else s.ramByte r x := by
  rw [State.ramByte, State.writeRam_draws, State.writeRam, State.setRam_ram_same, Memory.find_writeRange]
  split
  · next h =>
    have : x - a < vs.length := by omega
    simp [this]
  · rfl

/-- A range write to one RAM leaves the others alone. -/
theorem State.ramByte_writeRam_other (s : State) (r q : Ram) (a : Nat) (vs : List Byte) (x : Nat) (h : q ≠ r) :
    (s.writeRam r a vs).ramByte q x = s.ramByte q x := by
  simp only [State.ramByte, State.setRam_draws, State.writeRam, State.setRam_ram_other _ _ _ _ h]

theorem State.ramByte_writeRamEach_other (s : State) (r q : Ram) (cs : List (Nat × Byte)) (x : Nat) (h : q ≠ r) :
    (s.writeRamEach r cs).ramByte q x = s.ramByte q x := by
  simp only [State.ramByte, State.setRam_draws, State.writeRamEach, State.setRam_ram_other _ _ _ _ h]

theorem State.ramByte_writeRamEach_of_not_mem (s : State) (r : Ram) (cs : List (Nat × Byte)) (x : Nat)
    (h : ∀ c ∈ cs, c.1 ≠ x) : (s.writeRamEach r cs).ramByte r x = s.ramByte r x := by
  simp only [State.ramByte, State.setRam_draws, State.writeRamEach, State.setRam_ram_same,
    Memory.find_writeEach_of_not_mem _ _ _ h]

theorem State.ramByte_writeRamEach_of_mem (s : State) (r : Ram) (cs : List (Nat × Byte)) (x : Nat) (v : Byte)
    (hd : (cs.map (·.1)).Nodup) (h : (x, v) ∈ cs) : (s.writeRamEach r cs).ramByte r x = v := by
  simp only [State.ramByte, State.setRam_draws, State.writeRamEach, State.setRam_ram_same,
    Memory.find_writeEach_of_mem _ _ _ _ hd h, Option.getD_some]

/-! ### Bits -/

@[simp] theorem lowBits_length (n : Nat) (v : Word) : (lowBits n v).length = n := by simp [lowBits]

@[simp] theorem byteBits_length (v : Byte) : (byteBits v).length = 8 := rfl

@[simp] theorem packBits_length (bits : List Bool) : (packBits bits).length = (bits.length + 7) / 8 := by simp [packBits]

/-! ### The table -/

theorem State.writeSegs_segEntry (s : State) (out : List SegEntry) (j : Nat) :
    (s.writeSegs out).segEntry j = if h : j < out.length then out[j] else s.segEntry j := by
  simp only [State.segEntry, State.writeSegs_segs, State.writeSegs_draws]
  by_cases h : j < out.length
  · rw [dif_pos h, List.getElem?_append_left h, List.getElem?_eq_getElem h, Option.getD_some]
  · have hj : out.length + (j - out.length) = j := by omega
    rw [dif_neg h, List.getElem?_append_right (by omega), List.getElem?_drop, hj]

/-! ### How a command ends -/

/-- Everything `finish` can answer: the body's state completed, or the error and nothing else. -/
theorem finish_eq_next {s t : State} {r : Except CmdError State} :
    finish s r = .next t ↔ (∃ u, r = .ok u ∧ t = u.completeOk) ∨ (∃ e, r = .error e ∧ t = s.raiseError e) := by
  cases r <;> simp [finish, eq_comm]

theorem finish_answers (s : State) (r : Except CmdError State) : ∃ t, finish s r = .next t := by
  cases r <;> exact ⟨_, rfl⟩

/-- Everything an append can do (41_bitseq.md R101). -/
theorem State.appendBits_eq (s : State) (b : Buf) (bits : List Bool) :
    (s.params.bsbCapBits < (s.bsb b).length + bits.length ∧ s.appendBits b bits = .error .allocationFailure) ∨
    ((s.bsb b).length + bits.length ≤ s.params.bsbCapBits ∧ s.appendBits b bits = .ok (s.setBsb b (s.bsb b ++ bits))) := by
  unfold State.appendBits
  split
  · exact .inl ⟨by assumption, rfl⟩
  · exact .inr ⟨by omega, rfl⟩

end Sys2Proof.Machine
end

