-- ==== Sys2Proof/Laws/PerInstr.lean ====
section
/-! SUPPORT. The per-instruction family Encoding: every command's word is accepted by a row of the opcode map that builds the command back. -/

namespace Sys2Proof.Laws.Encoding

/-- The word of a well-formed command is accepted by some row of the opcode map, and that row builds the command from it. -/
def Statement (i : Instr) : Prop :=
  i.wellFormed = true → ∃ r ∈ opcodeTable, r.accepts (encode i) = true ∧ r.build (encode i) = i

/-- The row at place `j` of the map, as the witness of `Statement`. -/
theorem of_row {i : Instr} (j : Nat) (hj : j < opcodeTable.length) (ha : opcodeTable[j].accepts (encode i) = true)
    (hb : opcodeTable[j].build (encode i) = i) : Statement i :=
  fun _ => ⟨opcodeTable[j], List.getElem_mem hj, ha, hb⟩

theorem nop : Statement .nop := of_row 0 (by decide) (by decide) (by decide)
theorem softReset : Statement .softReset := of_row 1 (by decide) (by decide) (by decide)
theorem bsbClear (b : Buf) : Statement (.bsbClear b) := by
  cases b <;> exact of_row 2 (by decide) (by decide) (by decide)
theorem bsbAppendBit (b : Buf) (f : Bool) : Statement (.bsbAppendBit b f) := by
  cases b <;> cases f <;> exact of_row 3 (by decide) (by decide) (by decide)
theorem bsbAppendNum (b : Buf) (n : Nat) : Statement (.bsbAppendNum b n) := by
  intro h
  have hn : n < 64 := by simpa [Instr.wellFormed] using h
  have all : ∀ n < 64, ∀ b ∈ [Buf.bsb0, Buf.bsb1], opcodeTable[4].accepts (encode (.bsbAppendNum b n)) = true ∧
      opcodeTable[4].build (encode (.bsbAppendNum b n)) = .bsbAppendNum b n := by decide
  have hb : b ∈ [Buf.bsb0, Buf.bsb1] := by cases b <;> decide
  exact of_row 4 (by decide) (all n hn b hb).1 (all n hn b hb).2 h
theorem bsbAppendBytes (b : Buf) : Statement (.bsbAppendBytes b) := by
  cases b <;> exact of_row 5 (by decide) (by decide) (by decide)
theorem bsbAppendSeq (b src : Buf) : Statement (.bsbAppendSeq b src) := by
  cases b <;> cases src <;> exact of_row 6 (by decide) (by decide) (by decide)
theorem bsbGetBit (b : Buf) : Statement (.bsbGetBit b) := by
  cases b <;> exact of_row 7 (by decide) (by decide) (by decide)
theorem bsbPack (b : Buf) : Statement (.bsbPack b) := by
  cases b <;> exact of_row 8 (by decide) (by decide) (by decide)
theorem segSplit (f : Bool) : Statement (.segSplit f) := by
  cases f <;> exact of_row 9 (by decide) (by decide) (by decide)
theorem rsBlock : Statement .rsBlock := of_row 10 (by decide) (by decide) (by decide)
theorem rsInterleave : Statement .rsInterleave := of_row 11 (by decide) (by decide) (by decide)
theorem fill : Statement .fill := of_row 12 (by decide) (by decide) (by decide)
theorem maskEval (k : Fin 8) : Statement (.maskEval k) := by
  refine of_row 13 (by decide) ?_ ?_ <;> revert k <;> decide
theorem maskSelect : Statement .maskSelect := of_row 14 (by decide) (by decide) (by decide)
theorem maskForce (k : Fin 8) : Statement (.maskForce k) := by
  refine of_row 15 (by decide) ?_ ?_ <;> revert k <;> decide

end Sys2Proof.Laws.Encoding
end

