-- ==== Sys2Proof/Laws/Segmenter.lean ====
section
/-! SUPPORT. What the segmenter's loops can do: the classes of 42_segmenter.md R130 read from the text, the end of a run, the costs of R132, and the loops of R134 and R135. -/

namespace Sys2Proof.Machine

/-- The class of every byte value (42_segmenter.md R130). -/
theorem classOf_spec : ∀ c : Byte, (classOf c = .num ↔ (0x30 ≤ c.toNat ∧ c.toNat ≤ 0x39)) ∧
    (classOf c).isAn = decide ((0x30 ≤ c.toNat ∧ c.toNat ≤ 0x39) ∨ (0x41 ≤ c.toNat ∧ c.toNat ≤ 0x5A) ∨
      c.toNat ∈ [0x20, 0x24, 0x25, 0x2A, 0x2B, 0x2D, 0x2E, 0x2F, 0x3A]) ∧ classOf c ≠ .endOfInput := by decide +kernel

theorem clsAt_map (t : List Byte) (i : Nat) : clsAt (t.map classOf) i = (t[i]?.map classOf).getD .endOfInput := by
  rw [clsAt, List.getD_eq_getElem?_getD, List.getElem?_map]

theorem clsAt_isNum (t : List Byte) (i : Nat) : (clsAt (t.map classOf) i).isNum = digitAt t i := by
  rw [clsAt_map, digitAt]
  cases t[i]? with
  | none => rfl
  | some c => rw [Bool.eq_iff_iff]; simp [CharClass.isNum, (classOf_spec c).1]

theorem clsAt_isAn (t : List Byte) (i : Nat) : (clsAt (t.map classOf) i).isAn = alnumAt t i := by
  rw [clsAt_map, alnumAt]
  cases t[i]? with
  | none => rfl
  | some c => exact (classOf_spec c).2.1

theorem clsAt_endOfInput (t : List Byte) (i : Nat) : clsAt (t.map classOf) i = .endOfInput ↔ t.length ≤ i := by
  rw [clsAt_map, ← List.getElem?_eq_none_iff]
  cases t[i]? with
  | none => simp
  | some c => simpa using (classOf_spec c).2.2

/-- What each class says of the text. -/
theorem clsAt_cases (t : List Byte) (p : Nat) :
    (clsAt (t.map classOf) p = .num ∧ digitAt t p = true ∧ alnumAt t p = true ∧ byteAt t p = false ∧ p < t.length) ∨
    (clsAt (t.map classOf) p = .an ∧ digitAt t p = false ∧ alnumAt t p = true ∧ byteAt t p = false ∧ p < t.length) ∨
    (clsAt (t.map classOf) p = .byte ∧ digitAt t p = false ∧ alnumAt t p = false ∧ byteAt t p = true ∧ p < t.length) ∨
    (clsAt (t.map classOf) p = .endOfInput ∧ digitAt t p = false ∧ alnumAt t p = false ∧ byteAt t p = false ∧ t.length ≤ p) := by
  have hl := clsAt_endOfInput t p
  rw [byteAt, ← clsAt_isNum, ← clsAt_isAn]
  cases h : clsAt (t.map classOf) p <;> rw [h] at hl <;> simp [CharClass.isNum, CharClass.isAn] at hl ⊢ <;> omega

theorem clsAt_eq_byte (t : List Byte) (p : Nat) : clsAt (t.map classOf) p = .byte ↔ byteAt t p = true := by
  rcases clsAt_cases t p with h | h | h | h <;> simp [h]

/-- `runEnd` is where the run of a class ends. -/
theorem runEnd_runTo (cs : List CharClass) (P : CharClass → Bool) (hP : P .endOfInput = false) (p : Nat) :
    RunTo (fun i => P (clsAt cs i)) p (runEnd cs P p) := by
  have drop_get : ∀ k, clsAt cs (p + k) = (cs.drop p).getD k .endOfInput := by
    intro k; simp [clsAt, List.getD_eq_getElem?_getD]
  have key : ∀ l : List CharClass, (∀ k, k < (l.takeWhile P).length → P (l.getD k .endOfInput) = true) ∧
      P (l.getD (l.takeWhile P).length .endOfInput) = false := by
    intro l
    induction l with
    | nil => simpa using hP
    | cons c l ih =>
      by_cases hc : P c = true
      · rw [List.takeWhile_cons_of_pos hc]
        refine ⟨fun k hk => ?_, by simpa using ih.2⟩
        cases k with
        | zero => simpa using hc
        | succ k => simpa using ih.1 k (by simpa using hk)
      · rw [List.takeWhile_cons_of_neg hc]
        simpa using hc
  refine ⟨Nat.le_add_right _ _, fun j h1 h2 => ?_, ?_⟩
  · obtain ⟨k, rfl⟩ := Nat.exists_eq_add_of_le h1
    show P (clsAt cs (p + k)) = true
    rw [drop_get]; exact (key _).1 k (by unfold runEnd at h2; omega)
  · show P (clsAt cs (p + _)) = false
    rw [drop_get]; exact (key _).2

theorem runEnd_digits (t : List Byte) (p : Nat) : RunTo (digitAt t) p (runEnd (t.map classOf) CharClass.isNum p) := by
  simpa only [clsAt_isNum] using runEnd_runTo (t.map classOf) CharClass.isNum rfl p

theorem runEnd_alnum (t : List Byte) (p : Nat) : RunTo (alnumAt t) p (runEnd (t.map classOf) CharClass.isAn p) := by
  simpa only [clsAt_isAn] using runEnd_runTo (t.map classOf) CharClass.isAn rfl p

/-- A run that starts is not empty. -/
theorem runTo_lt {P : Nat → Bool} {p q : Nat} (h : RunTo P p q) (hp : P p = true) : p < q := by
  rcases Nat.lt_or_eq_of_le h.1 with h' | rfl
  · exact h'
  · have := h.2.2; simp [hp] at this

theorem estN_eq (n : Nat) : estN n = numericBits n := by
  have : n % 3 < 3 := Nat.mod_lt _ (by decide)
  unfold estN numericBits
  generalize n % 3 = r at *
  interval_cases r <;> simp <;> omega

theorem estA_eq (n : Nat) : estA n = alnumBits n := by unfold estA alnumBits; omega

/-- The loop of absorb-byte, with passes enough for the rest of the input. -/
theorem absorbByteEnd_spec (w : Widths) (t : List Byte) (st : Nat) : ∀ fuel p, t.length ≤ fuel + p →
    ByteLoop w t st p (absorbByteEnd w (t.map classOf) st fuel p) ∧ p ≤ absorbByteEnd w (t.map classOf) st fuel p := by
  intro fuel
  induction fuel with
  | zero => intro p h; exact ⟨.atEnd (by omega), Nat.le_refl _⟩
  | succ f ih =>
    intro p h
    unfold absorbByteEnd
    rw [List.length_map]
    by_cases hp : p < t.length
    swap
    · rw [if_neg hp]; exact ⟨.atEnd (by omega), Nat.le_refl _⟩
    rw [if_pos hp]
    rcases clsAt_cases t p with ⟨hc, hd, ha, -⟩ | ⟨hc, hd, ha, -⟩ | ⟨hc, -, -, hb, -⟩ | ⟨-, -, -, -, hl⟩
    · rw [hc]; simp only
      have hr := runEnd_digits t p
      have hlt := runTo_lt hr hd
      generalize runEnd (t.map classOf) CharClass.isNum p = q at *
      simp only [clsAt_eq_byte, estN_eq, est8]
      obtain ⟨sw, hsw⟩ : ∃ sw, sw = (if byteAt t q = true then 4 + w.l8 else 0) := ⟨_, rfl⟩
      rw [← hsw]
      split
      · exact ⟨.digitsCheaper (w := w) (st := st) hd hr (by rw [← hsw]; omega), Nat.le_refl _⟩
      · have := ih q (by omega)
        exact ⟨.digitsKept (w := w) (st := st) hd hr (by rw [← hsw]; omega) this.1, by omega⟩
    · rw [hc]; simp only
      have hr := runEnd_alnum t p
      have hlt := runTo_lt hr ha
      generalize runEnd (t.map classOf) CharClass.isAn p = q at *
      simp only [clsAt_eq_byte, estA_eq, est8]
      obtain ⟨sw, hsw⟩ : ∃ sw, sw = (if byteAt t q = true then 4 + w.l8 else 0) := ⟨_, rfl⟩
      rw [← hsw]
      split
      · exact ⟨.alnumCheaper (w := w) (st := st) ha hd hr (by rw [← hsw]; omega), Nat.le_refl _⟩
      · have := ih q (by omega)
        exact ⟨.alnumKept (w := w) (st := st) ha hd hr (by rw [← hsw]; omega) this.1, by omega⟩
    · rw [hc]
      have := ih (p + 1) (by omega)
      exact ⟨.byteTaken hb this.1, Nat.le_trans (Nat.le_succ p) this.2⟩
    · omega

/-- The loop of absorb-alphanumeric, with passes enough for the rest of the input. -/
theorem absorbAnEnd_spec (w : Widths) (t : List Byte) (st : Nat) : ∀ fuel p, t.length < fuel + p →
    AlnumLoop w t st p (absorbAnEnd w (t.map classOf) st fuel p) ∧ p ≤ absorbAnEnd w (t.map classOf) st fuel p := by
  intro fuel
  induction fuel with
  | zero =>
    intro p h
    have : alnumAt t p = false := by rcases clsAt_cases t p with h | h | h | h <;> first | exact h.2.2.1 | omega
    exact ⟨.atEnd this, Nat.le_refl _⟩
  | succ f ih =>
    intro p h
    unfold absorbAnEnd
    rcases clsAt_cases t p with ⟨hc, hd, ha, -⟩ | ⟨hc, hd, ha, -⟩ | ⟨hc, -, ha, -⟩ | ⟨hc, -, ha, -⟩
    · rw [hc]; simp only
      have hr := runEnd_digits t p
      have hlt := runTo_lt hr hd
      generalize runEnd (t.map classOf) CharClass.isNum p = q at *
      simp only [clsAt_isAn, estN_eq, estA_eq]
      obtain ⟨sw, hsw⟩ : ∃ sw, sw = (if alnumAt t q = true then 4 + w.resume else 0) := ⟨_, rfl⟩
      rw [← hsw]
      split
      · exact ⟨.digitsCheaper (w := w) (st := st) hd hr (by rw [← hsw]; omega), Nat.le_refl _⟩
      · have := ih q (by omega)
        exact ⟨.digitsKept (w := w) (st := st) hd hr (by rw [← hsw]; omega) this.1, by omega⟩
    · rw [hc]
      have := ih (p + 1) (by omega)
      exact ⟨.letterTaken ha hd this.1, Nat.le_trans (Nat.le_succ p) this.2⟩
    · rw [hc]; exact ⟨.atEnd ha, Nat.le_refl _⟩
    · rw [hc]; exact ⟨.atEnd ha, Nat.le_refl _⟩

/-- absorb-byte (42_segmenter.md R135). -/
theorem absorbByte_spec (w : Widths) (t : List Byte) (st : Nat) :
    (absorbByte w (t.map classOf) st).mode = .byte ∧ AbsorbsByte w t st (absorbByte w (t.map classOf) st).len := by
  have := absorbByteEnd_spec w t st (t.map classOf).length (st+1) (by rw [List.length_map]; omega)
  refine ⟨rfl, ?_⟩
  unfold AbsorbsByte absorbByte
  simp only
  rw [Nat.add_sub_cancel' (by omega)]; exact this.1

/-- absorb-alphanumeric (42_segmenter.md R134). -/
theorem absorbAn_spec (w : Widths) (t : List Byte) (st : Nat) :
    AbsorbsAlnum w t st (absorbAn w (t.map classOf) st).mode (absorbAn w (t.map classOf) st).len := by
  have h := absorbAnEnd_spec w t st ((t.map classOf).length + 1) st (by rw [List.length_map]; omega)
  unfold absorbAn
  generalize absorbAnEnd w (t.map classOf) st ((t.map classOf).length + 1) st = p at *
  obtain ⟨run, rfl⟩ := Nat.exists_eq_add_of_le h.2
  simp only [Nat.add_sub_cancel_left, clsAt_eq_byte, estA_eq, est8]
  split
  · next hc =>
    rw [(absorbByte_spec w t st).1]
    exact .toByte (run := run) h.1 hc.1 (by omega) (absorbByte_spec w t st).2
  · next hc => exact .stays (run := run) h.1 (fun hb => by by_contra hh; exact hc ⟨hb, by omega⟩)

/-- absorb-numeric (42_segmenter.md R133). -/
theorem absorbNum_spec (w : Widths) (t : List Byte) (st : Nat) :
    AbsorbsNumeric w t st (absorbNum w (t.map classOf) st).mode (absorbNum w (t.map classOf) st).len := by
  have h := runEnd_digits t st
  unfold absorbNum
  generalize runEnd (t.map classOf) CharClass.isNum st = p at *
  obtain ⟨run, rfl⟩ := Nat.exists_eq_add_of_le h.1
  have e : alnumBits 1 = 6 := by decide
  have ha : clsAt (t.map classOf) (st+run) = .an ↔ alnumAt t (st+run) = true := by
    have := h.2.2
    rcases clsAt_cases t (st+run) with h | h | h | h <;> simp_all
  simp only [Nat.add_sub_cancel_left, clsAt_eq_byte, estA_eq, estN_eq, est8, ha, e]
  split
  · next hc => rw [(absorbByte_spec w t st).1]; exact .toByte (run := run) h hc.1 (by omega) (absorbByte_spec w t st).2
  · next hc =>
    split
    · next hc2 => exact .toAlnum (run := run) h hc2.1 (by omega) (absorbAn_spec w t st)
    · next hc2 => exact .stays (run := run) h (fun hb => by by_contra hh; exact hc ⟨hb, by omega⟩) (fun hb => by by_contra hh; exact hc2 ⟨hb, by omega⟩)

end Sys2Proof.Machine
end

