-- ==== Sys2Proof/Laws/Step.lean ====
section
/-! SUPPORT. What one step can be, said once: a command completed by the sequencer, an illegal word completed with its error, or one action of the outside. -/

namespace Sys2Proof.Machine

/-- Every command ends through the execution frame (40_control.md R90): a body's result, finished. -/
theorem exec_is_finish (i : Instr) (s : State) : ∃ r, exec i s = finish s r := by
  cases i with
  | nop => exact ⟨.ok s, rfl⟩
  | softReset => exact ⟨.ok s.softReset, rfl⟩
  | bsbClear b => exact ⟨.ok (s.setBsb b []), rfl⟩
  | bsbAppendBit b f => exact ⟨s.appendBits b [f], rfl⟩
  | bsbAppendNum b n => exact ⟨if 32 < n then .error .invalidInput else s.appendBits b (lowBits n s.arg0), rfl⟩
  | bsbAppendBytes b => exact ⟨s.appendBytes b, rfl⟩
  | bsbAppendSeq b src => exact ⟨s.appendBits b (s.bsb src), rfl⟩
  | bsbGetBit b => exact ⟨s.getBit b, rfl⟩
  | bsbPack b => exact ⟨s.pack b, rfl⟩
  | segSplit f => exact ⟨s.segSplit f, rfl⟩
  | rsBlock => exact ⟨s.rsBlock, rfl⟩
  | rsInterleave => exact ⟨s.rsInterleave, rfl⟩
  | fill => exact ⟨s.fill, rfl⟩
  | maskEval k => exact ⟨s.maskEval k, rfl⟩
  | maskSelect => exact ⟨s.maskSelect, rfl⟩
  | maskForce k => exact ⟨s.maskForce k, rfl⟩

/-- Every command answers a next state. -/
theorem exec_answers (i : Instr) (s : State) : ∃ t, exec i s = .next t := by
  obtain ⟨r, hr⟩ := exec_is_finish i s
  exact hr ▸ finish_answers s r

/-- Everything one step can do. -/
theorem step_cases {s t : State} (h : step s = .next t) :
    (∃ c i, s.pending = some c ∧ s.hostFirst = false ∧ decode c = .ok i ∧ exec i s = .next t) ∨
    (∃ c e, s.pending = some c ∧ s.hostFirst = false ∧ decode c = .error e ∧ t = s.raiseError .illegalCommand) ∨
    ((s.pending = none ∨ s.hostFirst = true) ∧ t = s.hostStep) := by
  unfold step at h
  cases hp : s.pending with
  | none =>
    rw [hp] at h
    exact .inr (.inr ⟨.inl rfl, by simpa using h.symm⟩)
  | some c =>
    rw [hp] at h
    cases hf : s.hostFirst with
    | true => exact .inr (.inr ⟨.inr rfl, by simpa [hf] using h.symm⟩)
    | false =>
      simp only [hf, Bool.false_eq_true, if_false, runCommand] at h
      cases hd : decode c with
      | ok i => exact .inl ⟨c, i, rfl, rfl, hd, by simpa [hd] using h⟩
      | error e => exact .inr (.inl ⟨c, e, rfl, rfl, hd, by simpa [hd] using h.symm⟩)

/-- A step taken while the sequencer has the turn is the execution of the pending word. -/
theorem step_of_pending {s : State} {c : Word} (hp : s.pending = some c) (hf : s.hostFirst = false) :
    step s = runCommand c s := by
  simp [step, hp, hf]

/-- A step taken while nothing is pending is the outside's next action. -/
theorem step_of_idle {s : State} (hp : s.pending = none) : step s = .next s.hostStep := by
  simp [step, hp]

end Sys2Proof.Machine
end

