-- ==== Sys2Proof/Tests/Slice0.lean ====
section
/-! SUPPORT. Small tests with expected results from spec/95_test_vectors.md and the rules' own examples (named in each comment), the WellFormed smoke test, and for every statement with hypotheses a witness that meets them. -/

namespace Sys2Proof.Tests

open Sys2Proof Sys2Proof.Machine

/-! ### Helpers -/

/-- The state a command leaves; the state before it if it does not answer next. -/
def after (i : Instr) (s : State) : State :=
  match exec i s with
  | .next t => t
  | .fault _ => s
  | .refused _ => s

/-- The reset state with DATA_RAM bytes at 0 and ARG0 to ARG3. -/
def withData (bytes : List Byte) (a0 a1 a2 a3 : Word) : State :=
  { State.reset with dataRam := Memory.run 0 bytes, arg0 := a0, arg1 := a1, arg2 := a2, arg3 := a3 }

/-- The reset state of an implementation whose DATA_RAM has 4098 bytes, the last two of them 0x11 and 0x22. -/
def oddDataRam : State :=
  { State.reset with params := { Config.defaultParams with dataRamBytes := 4098 }, dataRam := [(4096, 0x11#8), (4097, 0x22#8)] }

/-- A version-1 state whose FRAME_RAM bytes 0 to 440 are all `v`, with ARG0 to ARG2. -/
def withFrame (v : Byte) (bytes : List Byte) (a0 a1 a2 : Word) : State :=
  { withData bytes a0 a1 a2 0#32 with version := 1#6, frameRam := Memory.run 0 (List.replicate 441 v) }

/-- A version-1 state whose FRAME_RAM rows 17 to 20 (bytes 357 to 440) are all 0, with ARG0 to ARG2. -/
def withBottomRows (bytes : List Byte) (a0 a1 a2 : Word) : State :=
  { withData bytes a0 a1 a2 0#32 with version := 1#6, frameRam := Memory.run 357 (List.replicate 84 0x00#8) }

/-- The reset state with a full BSB0. -/
def fullBuffer : State := { State.reset with bsb0 := List.replicate 32768 true }

theorem fullBuffer_length : (fullBuffer.bsb .bsb0).length = 32768 := List.length_replicate

/-- The reset state with a word pending and a queue. -/
def pendingState (c : Word) (q : List HostEvent) : State := { State.reset with pending := some c, hostQueue := q }

/-! ### Well-formedness -/

theorem test_wellFormed_refuses_wide_n : (Instr.bsbAppendNum .bsb0 64).wellFormed = false := by decide
theorem test_wellFormed_takes_widest_n : (Instr.bsbAppendNum .bsb1 63).wellFormed = true := by decide

/-! ### Decoding: words written out from the patterns of 30_encoding.md R75 and opcode_table.json -/

theorem test_decode_control :
    decode 0b00000000000000000000000000000000#32 = .ok .nop ∧ decode 0b00000000000000000000000000000001#32 = .ok .softReset := by decide
theorem test_decode_buffers :
    decode 0b00000000000000000000000100010000#32 = .ok (.bsbClear .bsb1) ∧
    decode 0b00000000000000000010000100010001#32 = .ok (.bsbAppendBit .bsb1 true) ∧
    decode 0b00000000001000010000000000010010#32 = .ok (.bsbAppendNum .bsb0 33) ∧
    decode 0b00000000000000000000000100010011#32 = .ok (.bsbAppendBytes .bsb1) ∧
    decode 0b00000000000000000000001000010100#32 = .ok (.bsbAppendSeq .bsb0 .bsb1) ∧
    decode 0b00000000000000000000000000010101#32 = .ok (.bsbGetBit .bsb0) ∧
    decode 0b00000000000000000000000100010110#32 = .ok (.bsbPack .bsb1) := by decide
theorem test_decode_segmenter : decode 0b00000000000000000010000000100000#32 = .ok (.segSplit true) := by decide
theorem test_decode_reed_solomon :
    decode 0b00000000000000000000000000110000#32 = .ok .rsBlock ∧ decode 0b00000000000000000000000000110001#32 = .ok .rsInterleave := by
  decide
theorem test_decode_placer : decode 0b00000000000000000000000001000000#32 = .ok .fill := by decide
theorem test_decode_mask :
    decode 0b00000000000000000001010001010000#32 = .ok (.maskEval 5) ∧
    decode 0b00000000000000000000000001010001#32 = .ok .maskSelect ∧
    decode 0b00000000000000000000110001010010#32 = .ok (.maskForce 3) := by decide
/-- V-C3 to V-C11. -/
theorem test_decode_refuses :
    ([0x02#32, 0xFF#32, 0x53#32].map decode = List.replicate 3 (.error .unassignedOpcode)) ∧
    ([0x100#32, 0x4010#32, 0x80000016#32, 0x451#32, 0x150#32, 0x214012#32].map decode = List.replicate 6 (.error .unusedBitSet)) := by
  decide
theorem test_table_word : decodeTableWord 32 0x00090012 = some (.bsbAppendNum .bsb0 9) := by decide

/-! ### Control -/

/-- V-C1. -/
theorem test_nop : (after .nop State.reset).statusWord = 0x00000002#32 := by decide
/-- V-C2. -/
theorem test_softReset :
    let t := after .softReset { State.reset with
      bsb0 := List.replicate 12 true, version := 5#6, status := ⟨true, true, 1#8, false, true⟩ }
    t.bsb0 = [] ∧ t.version = 0#6 ∧ t.statusWord = 0x00000002#32 := by decide

/-! ### Buffers -/

/-- V-BS1. -/
theorem test_clear : (after (.bsbClear .bsb1) { State.reset with bsb1 := [true, false, true] }).bsb1 = [] := by decide
/-- V-BS3. -/
theorem test_appendBit :
    (after (.bsbAppendBit .bsb0 true) { State.reset with bsb0 := [false, true] }).bsb0 = [false, true, true] := by decide
/-- V-BS4. -/
theorem test_appendNum : (after (.bsbAppendNum .bsb0 9) (withData [] 0x0B#32 0#32 0#32 0#32)).bsb0 =
    [false, false, false, false, false, true, false, true, true] := by decide
/-- V-BS8. -/
theorem test_appendNum_wide : (after (.bsbAppendNum .bsb0 33) State.reset).statusWord = 0x00020106#32 := by decide
/-- V-BS12. -/
theorem test_appendBytes : (after (.bsbAppendBytes .bsb0) (withData [0x41#8, 0x0F#8] 0#32 2#32 0#32 0#32)).bsb0 =
    [false, true, false, false, false, false, false, true, false, false, false, false, true, true, true, true] := by decide
/-- V-BS16. -/
theorem test_appendBytes_no_wrap :
    (after (.bsbAppendBytes .bsb0) (withData [] 0xFFFFFFFF#32 2#32 0#32 0#32)).statusWord = 0x00020806#32 := by decide
/-- V-BS17. -/
theorem test_appendSeq :
    (after (.bsbAppendSeq .bsb0 .bsb1) { State.reset with bsb0 := [true, false], bsb1 := [true, true, true] }).bsb0 =
      [true, false, true, true, true] := by decide
/-- V-BS18. -/
theorem test_appendSeq_self :
    (after (.bsbAppendSeq .bsb1 .bsb1) { State.reset with bsb1 := [true, false] }).bsb1 = [true, false, true, false] := by decide
/-- V-BS20. -/
theorem test_getBit :
    (after (.bsbGetBit .bsb0) { withData [] 5#32 0#32 0#32 0#32 with
      bsb0 := [false, false, false, false, false, true, false, true, true] }).res.res0 = 1#32 := by decide
/-- V-BS23. -/
theorem test_getBit_empty : (after (.bsbGetBit .bsb1) State.reset).statusWord = 0x00020606#32 := by decide
/-- V-BS24. -/
theorem test_pack :
    let t := after (.bsbPack .bsb0) { withData [] 0x100#32 0#32 0#32 0#32 with bsb0 := [true, false, true] }
    t.dataRam = [(0x100, 0xA0#8)] ∧ t.res.res0 = 1#32 := by decide
/-- V-BS25. -/
theorem test_pack_padded :
    (after (.bsbPack .bsb0) { State.reset with bsb0 := List.replicate 9 true }).dataRam = [(0, 0xFF#8), (1, 0x80#8)] := by decide

/-! ### Segmenter -/

/-- V-SG24: "abc123456789" folded. -/
theorem test_segSplit_fold :
    let t := after (.segSplit true) { withData [0x61#8, 0x62#8, 0x63#8, 0x31#8, 0x32#8, 0x33#8, 0x34#8, 0x35#8, 0x36#8, 0x37#8, 0x38#8, 0x39#8]
      0#32 12#32 0#32 0#32 with version := 1#6 }
    t.segs = [⟨1#2, 0#16, 3#16⟩, ⟨0#2, 3#16, 9#16⟩] ∧ t.segCount = 2#32 ∧ t.dataRam.take 3 = [(0, 0x41#8), (1, 0x42#8), (2, 0x43#8)] := by
  decide +kernel
/-- V-SG18 and V-SG19: "ab12345678cd" at versions 10 and 27. -/
theorem test_split_by_version :
    let text : List Byte := [0x61#8, 0x62#8, 0x31#8, 0x32#8, 0x33#8, 0x34#8, 0x35#8, 0x36#8, 0x37#8, 0x38#8, 0x63#8, 0x64#8]
    split (widthsFor .ln 10) text = [⟨.byte, 0, 2⟩, ⟨.num, 2, 8⟩, ⟨.byte, 10, 2⟩] ∧
    split (widthsFor .ln 27) text = [⟨.byte, 0, 12⟩] := by decide +kernel

/-! ### Reed-Solomon -/

/-- V-RS5 through RS_BLOCK. -/
theorem test_rsBlock :
    let t := after .rsBlock (withData [0x12#8, 0x34#8, 0x56#8] 0#32 3#32 3#32 4#32)
    t.dataRam.drop 3 = [(3, 0x37#8), (4, 0xE6#8), (5, 0x78#8), (6, 0xD9#8)] ∧ t.res.res0 = 4#32 := by decide +kernel
/-- V-RS11: the example of 43_reed_solomon.md R167. -/
theorem test_rsInterleave :
    let t := after .rsInterleave (withData
      [0x10#8, 0x11#8, 0x12#8, 0x13#8, 0x14#8, 0x15#8, 0x16#8, 0x17#8, 0x18#8, 0x19#8] 0#32 0x04010302#32 0#32 2#32)
    t.dataRam.map Prod.snd = [0x10#8, 0x13#8, 0x16#8, 0x11#8, 0x14#8, 0x17#8, 0x12#8, 0x15#8, 0x18#8, 0x19#8,
      0xB1#8, 0xB2#8, 0x11#8, 0xA2#8, 0xA0#8, 0x11#8] ∧ t.res.res0 = 16#32 ∧ t.res.res1 = 10#32 ∧ t.res.res2 = 6#32 := by decide +kernel
/-- g_7 of 43_reed_solomon.md R161. -/
theorem test_generator : generator 7 = [0x01#8, 0x7F#8, 0x7A#8, 0x9A#8, 0xA4#8, 0x0B#8, 0x44#8, 0x75#8] := by decide +kernel

/-! ### Placer -/

/-- The first eight positions of V-F1, on a grid with no reserved module in rows 17 to 20: codeword 0x20 puts its only 1 at (20, 19). -/
theorem test_fill :
    let t := after .fill (withBottomRows [0x20#8] 0#32 1#32 0#32)
    t.res.res0 = 8#32 ∧
    [20 * 21 + 20, 20 * 21 + 19, 19 * 21 + 20, 19 * 21 + 19, 18 * 21 + 20, 18 * 21 + 19, 17 * 21 + 20, 17 * 21 + 19].map t.frameRam.find =
      [some 0x02#8, some 0x02#8, some 0x03#8, some 0x02#8, some 0x02#8, some 0x02#8, some 0x02#8, some 0x02#8] := by decide +kernel
/-- 44_placer.md R193, R197: with every module reserved the cursor leaves the grid before the first bit. -/
theorem test_fill_overflow : nextFree 21 (fun _ => true) true (Cursor.start 21) = none := by decide +kernel
/-- The visited set of 44_placer.md R196 at version 1 has 441 - 21 - 18 modules. -/
theorem test_trail_length : (trail 21).length = 402 := by decide +kernel

/-! ### Mask engine -/

/-- Lines of 45_mask.md R234: the pattern at the line start, inside without enough light, at the line end, and at scale 2. -/
theorem test_line_scores :
    let score := fun m => (lineN1 (runs m), lineN3 (runs m))
    score [true, false, true, true, true, false, true, false, false, false, false] = (0, 40) ∧
    score [true, true, false, false, false, true, false, true, true, true, false, true, false, false, false, true] = (0, 0) ∧
    score [true, true, false, false, false, true, false, true, true, true, false, true, false] = (0, 40) ∧
    score [true, true, false, false, true, true, true, true, true, true, false, false, true, true, false, false] = (4, 40) := by decide
/-- The N4 table of 95_test_vectors.md section 2.6, where the rounding shows. -/
theorem test_n4_rounding :
    [242, 201, 0].map (demeritN4 .round · 441) = [10, 0, 100] ∧ [242, 201, 0].map (demeritN4 .truncate · 441) = [0, 10, 100] := by decide
/-- 45_mask.md R235. -/
theorem test_format_words :
    formatWord 0#2 0 = 0x77C4#15 ∧ formatWord 3#2 7 = 0x083B#15 ∧ formatWord 2#2 5 = 0x2183#15 := by decide
/-- MASK_FORCE 0 at level M on a light, unreserved grid: (0, 8) carries bit 14 of 0x5412 (V-M7); (0, 0) flips; (1, 0) does not. -/
theorem test_maskForce :
    let t := after (.maskForce 0) { withFrame 0x00#8 [] 0#32 0#32 0#32 with level := 1#2 }
    [168, 0, 1].map t.symRam.find = [some 0x85#8, some 0x01#8, some 0x00#8] ∧ t.res.res1 = 0#32 ∧ t.candRam = [] := by decide +kernel
/-- MASK_EVAL 1 (pattern y mod 2) on the same grid writes CAND_RAM only: row 20 flips but for the format module (8, 20). -/
theorem test_maskEval :
    let t := after (.maskEval 1) { withFrame 0x00#8 [] 0#32 0#32 0#32 with level := 1#2 }
    [420, 399, 428].map t.candRam.find = [some 0x01#8, some 0x00#8, some 0x85#8] ∧ t.res.res1 = 1#32 ∧ t.symRam = [] := by decide +kernel
/-- 45_mask.md R230: VERSION 0 is InvalidInput (V-M5). -/
theorem test_maskSelect_version : (after .maskSelect State.reset).statusWord = 0x00020106#32 := by decide
/-- 45_mask.md R224: among equal scores the lowest k. -/
theorem test_select_tie : selectBest (fun _ => 7) = 0 ∧ selectBest (fun k => if k = 2 ∨ k = 5 then 3 else 7) = 2 := by decide

/-! ### Host port -/

/-- V-B2 and P5 step 3: a 16-bit write to CMD is a bus error and issues nothing. -/
theorem test_bus_error :
    (State.reset.busWrite 0x00004#18 .half 0#32).statusWord = 0x00010000#32 ∧ (State.reset.busWrite 0x00004#18 .half 0#32).pending = none := by
  decide
/-- V-B5. -/
theorem test_bus_little_endian :
    ((withData [0x20#8, 0x5B#8, 0x0B#8, 0x78#8] 0#32 0#32 0#32 0#32).busRead 0x10000#18 .word).response =
      some (.readReply 0x780B5B20#32 false) := by decide
/-- The segment-table words of V-SG5. -/
theorem test_bus_table :
    let s := { State.reset with segs := [⟨1#2, 0#16, 3#16⟩, ⟨0#2, 3#16, 9#16⟩] }
    (s.busRead 0x01004#18 .word).response = some (.readReply 0x00010003#32 false) ∧
    (s.busRead 0x01008#18 .word).response = some (.readReply 0x00000003#32 false) := by decide
/-- 20_memory.md R53: a word at the last two bytes of a DATA_RAM of 4098 bytes reads 0 past them, and a write there stores two bytes. -/
theorem test_bus_straddles_data_ram :
    (oddDataRam.busRead 0x11000#18 .word).response = some (.readReply 0x00002211#32 false) ∧
    (oddDataRam.busWrite 0x11000#18 .word 0xDDCCBBAA#32).dataRam = [(4096, 0xAA#8), (4097, 0xBB#8)] := by decide
/-- 10_state.md R39: a byte and a half-word of a table entry. -/
theorem test_table_parts :
    let s := { State.reset with segs := [⟨2#2, 0x0102#16, 0x0304#16⟩] }
    (s.busRead 0x01006#18 .half).response = some (.readReply 0x0002#32 false) ∧
    (s.busRead 0x01001#18 .byte).response = some (.readReply 0x01#32 false) ∧ s.tableData 6 2 = 0x0002#32 := by decide
/-- P5 step 8: a read queued behind a CMD write waits for the completion. -/
theorem test_busy_hold :
    step (pendingState 0x00000015#32 [⟨.read 0x00024#18 .word, true⟩]) =
      .next { State.reset with status := ⟨true, true, 6#8, false, true⟩, hostQueue := [⟨.read 0x00024#18 .word, true⟩] } := by rfl
/-- withFetchWord: the very next step runs the word. -/
theorem test_withFetchWord : step (State.reset.withFetchWord 32 0x00002011) =
    .next { State.reset with bsb0 := [true], status := ⟨true, false, 0#8, false, false⟩ } := by rfl

/-! ### Witnesses: states and operands that meet the hypotheses of each statement -/

theorem witness_DecodeOfEncode : (Instr.bsbAppendNum .bsb1 63).wellFormed = true := by decide
/-- Every opcode of 30_encoding.md R75, with reserved bit 31 set, meets the hypotheses of `UsesOnly`. -/
theorem witness_UsesOnly :
    ∀ opc ∈ [0x00#8, 0x01#8, 0x10#8, 0x11#8, 0x12#8, 0x13#8, 0x14#8, 0x15#8, 0x16#8, 0x20#8, 0x30#8, 0x31#8, 0x40#8, 0x50#8, 0x51#8, 0x52#8],
      (0x800000#24 ++ opc).extractLsb' 0 8 = opc ∧ (0x800000#24 ++ opc).getLsbD 31 = true := by decide
theorem witness_EncodeOfDecode : decode 0x003F0112#32 = .ok (.bsbAppendNum .bsb1 63) := by decide
theorem witness_IllegalWords :
    let s := pendingState 0x00000002#32 []
    s.pending = some 0x00000002#32 ∧ s.hostFirst = false ∧ decode 0x00000002#32 = .error .unassignedOpcode := by decide
theorem witness_StepExecutesPendingCommand :
    let s := pendingState 0x00000040#32 [⟨.assertReset, false⟩]
    s.pending = some 0x00000040#32 ∧ s.hostFirst = false ∧ decode 0x00000040#32 = .ok .fill := by decide
theorem witness_IdleStep :
    (State.reset.pending = none ∧ State.reset.hostQueue = []) ∧
    (let s := { State.reset with hostQueue := [⟨.assertReset, true⟩] }
     s.pending = none ∧ s.hostQueue = ⟨.assertReset, true⟩ :: []) := by decide
theorem witness_CmdWriteIssues :
    let s := { State.reset with hostQueue := [⟨.write 0x00004#18 .word 0x51#32, true⟩] }
    s.pending = none ∧ s.rstLow = false ∧ s.hostQueue = ⟨.write 0x00004#18 .word 0x51#32, true⟩ :: [] := by decide
theorem witness_BusyHolds :
    let s := pendingState 0#32 [⟨.read 0x00008#18 .half, true⟩]
    s.pending = some 0#32 ∧ s.hostQueue = ⟨.read 0x00008#18 .half, true⟩ :: [] ∧
    HostAction.read 0x00008#18 .half ≠ .read 0x00008#18 .word ∧ HostAction.read 0x00008#18 .half ≠ .assertReset := by decide
theorem witness_StatusReadSeesBusy :
    let s := pendingState 0#32 [⟨.read 0x00008#18 .word, true⟩]
    s.pending = some 0#32 ∧ s.rstLow = false ∧ s.hostQueue = ⟨.read 0x00008#18 .word, true⟩ :: [] := by decide
theorem witness_reset_Inv : State.reset.Inv where
  params_legal := by decide
  rams_wf := State.reset_rams_wf
  buffers_fit := by intro b; cases b <;> decide
  table_fits := by decide
  count_written := by decide
  res7_zero := by decide
  err_iff_code := by decide
  code_known := by decide
  err_done := by decide
  busy_clears := by decide
  reset_idle := by decide
theorem witness_StepKeepsInvariant :
    State.reset.Inv ∧ State.reset.TableInv ∧ step State.reset = .next State.reset :=
  ⟨witness_reset_Inv, by intro e he; simp [State.reset, State.resetWith] at he, rfl⟩
theorem witness_ResetHasInvariant : Config.defaultParams.legal := by decide
theorem witness_failing_command :
    exec (.bsbGetBit .bsb0) State.reset = .next (failedState State.reset .invalidIndex) ∧
    (failedState State.reset .invalidIndex).status.err = true := ⟨rfl, rfl⟩
theorem witness_succeeding_command :
    isMaskCommand .nop = false ∧ Instr.nop ≠ .softReset ∧ exec .nop State.reset = .next State.reset.completeOk := ⟨rfl, by decide, rfl⟩
theorem witness_AppendBit :
    ((State.reset.bsb .bsb0).length + 1 ≤ State.reset.params.bsbCapBits) ∧
    (fullBuffer.params.bsbCapBits < (fullBuffer.bsb .bsb0).length + 1) := by
  refine ⟨by decide, ?_⟩
  rw [fullBuffer_length]; decide
theorem witness_AppendNum :
    (32 ≤ 32 ∧ (State.reset.bsb .bsb0).length + 32 ≤ State.reset.params.bsbCapBits) ∧ 32 < 33 ∧
    (9 ≤ 32 ∧ fullBuffer.params.bsbCapBits < (fullBuffer.bsb .bsb0).length + 9) := by
  refine ⟨by decide, by decide, by decide, ?_⟩
  rw [fullBuffer_length]; decide
theorem witness_AppendBytes :
    (let s := withData [] 16384#32 0#32 0#32 0#32
     s.arg0.toNat + s.arg1.toNat ≤ s.params.dataRamBytes ∧ (s.bsb .bsb0).length + 8 * s.arg1.toNat ≤ s.params.bsbCapBits) ∧
    (let s := withData [] 16380#32 5#32 0#32 0#32
     s.params.dataRamBytes < s.arg0.toNat + s.arg1.toNat) ∧
    (let s := withData [] 0#32 4097#32 0#32 0#32
     s.arg0.toNat + s.arg1.toNat ≤ s.params.dataRamBytes ∧ s.params.bsbCapBits < (s.bsb .bsb0).length + 8 * s.arg1.toNat) := by decide
theorem witness_AppendSeq :
    ((State.reset.bsb .bsb0).length + (State.reset.bsb .bsb1).length ≤ State.reset.params.bsbCapBits) ∧
    (fullBuffer.params.bsbCapBits < (fullBuffer.bsb .bsb0).length + (fullBuffer.bsb .bsb0).length) := by
  refine ⟨by decide, ?_⟩
  rw [fullBuffer_length]; decide
theorem witness_GetBit :
    (let s := { State.reset with bsb0 := [true] }
     (s.bsb .bsb0)[s.arg0.toNat]? = some true) ∧
    ((State.reset.bsb .bsb0).length ≤ State.reset.arg0.toNat) := by decide
theorem witness_Pack :
    (let s := { withData [] 16383#32 0#32 0#32 0#32 with bsb0 := List.replicate 8 true }
     s.arg0.toNat + ((s.bsb .bsb0).length + 7) / 8 ≤ s.params.dataRamBytes) ∧
    (let s := { withData [] 16384#32 0#32 0#32 0#32 with bsb0 := [true] }
     s.params.dataRamBytes < s.arg0.toNat + ((s.bsb .bsb0).length + 7) / 8) := by decide
theorem witness_PackThenAppend :
    let s := { State.reset with bsb0 := [true, false, true] }
    Buf.bsb1 ≠ .bsb0 ∧ s.bsb .bsb1 = [] ∧ s.arg0.toNat + ((s.bsb .bsb0).length + 7) / 8 ≤ s.params.dataRamBytes ∧
    s.params.dataRamBytes ≤ 65536 ∧ 8 * (((s.bsb .bsb0).length + 7) / 8) ≤ s.params.bsbCapBits := by decide
theorem witness_SegSplit :
    let s := withData [0x61#8] 0#32 1#32 0#32 0#32
    1 ≤ s.arg1.toNat ∧ s.arg1.toNat ≤ 65535 ∧ s.version.toNat ≤ 40 ∧ s.arg0.toNat + s.arg1.toNat ≤ s.params.dataRamBytes ∧
    (s.segOut true).length ≤ s.params.nsegMax ∧ (s.segOut false).length ≤ s.params.nsegMax := by decide +kernel
theorem witness_SegSplitErrors :
    (State.reset.arg1.toNat = 0) ∧ (65535 < (withData [] 0#32 65536#32 0#32 0#32).arg1.toNat) ∧
    (40 < ({ State.reset with version := 41#6 } : State).version.toNat) ∧
    (let s := withData [] 16384#32 1#32 0#32 0#32
     1 ≤ s.arg1.toNat ∧ s.arg1.toNat ≤ 65535 ∧ s.version.toNat ≤ 40 ∧ s.params.dataRamBytes < s.arg0.toNat + s.arg1.toNat) ∧
    (let s := { withData [0x31#8, 0x32#8, 0x33#8, 0x61#8] 0#32 4#32 0#32 0#32 with
       params := { Config.defaultParams with nsegMax := 1 } }
     s.arg0.toNat + s.arg1.toNat ≤ s.params.dataRamBytes ∧ s.params.nsegMax < (s.segOut false).length) := by decide +kernel
theorem witness_FieldLaws : (0x80#8 : Byte) ≠ 0#8 := by decide
theorem witness_ParityLaws : ([0x01#8] : List Byte).length = ([0xFF#8] : List Byte).length := by decide
theorem witness_RsBlock :
    (let s := withData [] 0#32 200#32 200#32 55#32
     1 ≤ s.arg1.toNat ∧ 1 ≤ s.arg3.toNat ∧ s.arg1.toNat + s.arg3.toNat ≤ 255 ∧ s.arg0.toNat + s.arg1.toNat ≤ s.params.dataRamBytes ∧
     s.arg2.toNat + s.arg3.toNat ≤ s.params.dataRamBytes) ∧
    (let s := withData [] 0#32 4#32 16383#32 2#32
     1 ≤ s.arg1.toNat ∧ 1 ≤ s.arg3.toNat ∧ s.arg1.toNat + s.arg3.toNat ≤ 255 ∧ s.params.dataRamBytes < s.arg2.toNat + s.arg3.toNat) ∧
    (let s := withData [] 0#32 200#32 200#32 56#32
     255 < s.arg1.toNat + s.arg3.toNat) ∧ (State.reset.arg1.toNat = 0) := by decide
theorem witness_RsInterleave :
    let s := withData [] 0#32 0x04010302#32 0#32 2#32
    let g : Geometry := ⟨2, 3, 1, 4, 2⟩
    g = ⟨s.arg1.toNat % 256, s.arg1.toNat / 256 % 256, s.arg1.toNat / 65536 % 256, s.arg1.toNat / 16777216, s.arg3.toNat⟩ ∧
    1 ≤ g.b1 ∧ 1 ≤ g.d1 ∧ 1 ≤ g.e ∧ (g.b2 = 0 → g.d2 = 0) ∧ (1 ≤ g.b2 → g.d2 = g.d1 + 1 ∧ g.d2 + g.e ≤ 255) ∧ g.d1 + g.e ≤ 255 ∧
    s.arg0.toNat + g.dataLen ≤ s.params.dataRamBytes ∧ s.arg2.toNat + g.dataLen + g.parityLen ≤ s.params.dataRamBytes := by decide
/-- V-RS13 to V-RS17: the geometries of the illegal cases and the range case. -/
theorem witness_RsInterleaveErrors :
    (let s := withData [] 0#32 0x03010302#32 0#32 2#32
     s.geometry = ⟨2, 3, 1, 3, 2⟩ ∧ s.geometry.legal = false) ∧
    (let s := withData [] 0#32 0x00000A01#32 16380#32 2#32
     s.geometry = ⟨1, 10, 0, 0, 2⟩ ∧ s.geometry.legal = true ∧
     s.params.dataRamBytes < s.arg2.toNat + s.geometry.dataLen + s.geometry.parityLen) := by decide
theorem witness_Fill :
    let s := withBottomRows [0x20#8] 0#32 1#32 0#32
    1 ≤ s.version.toNat ∧ s.version.toNat ≤ 40 ∧ s.arg0.toNat + s.arg1.toNat ≤ s.params.dataRamBytes ∧
    8 * s.arg1.toNat + s.arg2.toNat ≤ s.freeModules.length := by
  refine ⟨by decide, by decide, by decide, ?_⟩
  refine Nat.le_trans (m := (((((trail 21).map (Cursor.index 21)).take 8).filter fun i =>
    !isReserved ((withBottomRows [0x20#8] 0#32 1#32 0#32).ramByte .frame i)).length)) (by decide +kernel) ?_
  exact ((List.take_sublist 8 _).filter _).length_le
theorem witness_FillErrors :
    (State.reset.version.toNat < 1) ∧ (40 < ({ State.reset with version := 41#6 } : State).version.toNat) ∧
    (let s := withBottomRows [] 16380#32 5#32 0#32
     1 ≤ s.version.toNat ∧ s.version.toNat ≤ 40 ∧ s.params.dataRamBytes < s.arg0.toNat + s.arg1.toNat) ∧
    (let s := withBottomRows [] 0#32 0#32 403#32
     s.arg0.toNat + s.arg1.toNat ≤ s.params.dataRamBytes ∧ s.freeModules.length < 8 * s.arg1.toNat + s.arg2.toNat) := by
  refine ⟨by decide, by decide, by decide, by decide, ?_⟩
  refine Nat.lt_of_le_of_lt (m := 402) (Nat.le_trans (List.length_filter_le _ _) ?_) (by decide)
  rw [List.length_map]
  exact Nat.le_of_eq test_trail_length
theorem witness_grid_version :
    (1 ≤ (withFrame 0x00#8 [] 0#32 0#32 0#32).version.toNat ∧ (withFrame 0x00#8 [] 0#32 0#32 0#32).version.toNat ≤ 40) ∧
    State.reset.version.toNat < 1 ∧ 40 < ({ State.reset with version := 63#6 } : State).version.toNat := by decide
theorem witness_ForceOfSelectedMask :
    let s := withFrame 0x00#8 [] 0#32 0#32 0#32
    ∃ t, exec .maskSelect s = .next t ∧ t.res.res1 = BitVec.ofNat 32 s.bestMask.val :=
  ⟨_, rfl, rfl⟩
theorem witness_BusError :
    State.reset.rstLow = false ∧ ((0x00004#18).toNat < 0x1000 ∧ BusSize.half ≠ .word) ∧ ((0x00006#18).toNat % 4 ≠ 0) ∧
    (0x1000 ≤ (0x10001#18).toNat ∧ (0x10001#18).toNat % BusSize.half.bytes ≠ 0) := by decide
/-- At the last backed word, and across the end of a DATA_RAM of 4098 bytes. -/
theorem witness_RamWriteThenRead :
    State.reset.rstLow = false ∧ 16380 % BusSize.word.bytes = 0 ∧ 16380 < windowSize .data ∧
    16380 + BusSize.word.bytes ≤ backedBytes State.reset.params .data ∧ 32767 + BusSize.byte.bytes ≤ backedBytes State.reset.params .frame ∧
    (4096 % BusSize.word.bytes = 0 ∧ 4096 < windowSize .data ∧ 4096 + 1 < backedBytes oddDataRam.params .data ∧
      backedBytes oddDataRam.params .data ≤ 4096 + 2 ∧ oddDataRam.params.legal ∧ oddDataRam.rstLow = false) := by decide
theorem witness_ReadOnlyAndUnmapped :
    State.reset.Inv ∧ State.reset.rstLow = false ∧
    (0x1000 ≤ (0x02FFC#18).toNat ∧ (0x02FFC#18).toNat < 0x3000 ∧ (0x02FFC#18).toNat % BusSize.word.bytes = 0) ∧
    (0x3000 ≤ (0x03000#18).toNat ∧ (0x03000#18).toNat % BusSize.half.bytes = 0) ∧
    (0x10000 + State.reset.params.dataRamBytes ≤ (0x14000#18).toNat ∧ (0x14000#18).toNat < 0x20000) ∧
    (windowBase .data ≤ (0x1FFFF#18).toNat ∧ (0x1FFFF#18).toNat < windowBase .data + windowSize .data) ∧
    (windowBase .sym ≤ (0x37FFC#18).toNat ∧ (0x37FFC#18).toNat < windowBase .sym + windowSize .sym) :=
  ⟨witness_reset_Inv, by decide, by decide, by decide, by decide, by decide, by decide⟩
theorem witness_HostRegisterAccess :
    State.reset.rstLow = false ∧ (0x060 ≤ (0x00060#18).toNat ∧ (0x00060#18).toNat % 4 = 0) ∧
    ((0x00FFC#18).toNat ≤ 0xFFC ∧ (0x00FFC#18).toNat % 4 = 0) := by decide
theorem witness_HardwareReset :
    (let s := pendingState 0x00000051#32 [⟨.assertReset, true⟩]
     s.pending = some 0x00000051#32 ∧ s.rstLow = false ∧ s.hostQueue = ⟨.assertReset, true⟩ :: []) ∧
    (let s := { State.reset with hostQueue := [⟨.assertReset, false⟩] }
     s.pending = none ∧ s.rstLow = false ∧ s.hostQueue = ⟨.assertReset, false⟩ :: []) ∧
    ({ State.reset with rstLow := true } : State).rstLow = true := by decide
/-- The run list of the line 111111 (45_mask.md R234). -/
theorem witness_RunListOf : ([true, true, true, true, true, true] : List Bool) ≠ [] ∧ RunListOf [true, true, true, true, true, true] [-1, 6] :=
  ⟨by decide, rfl, by decide, fun _ => ⟨[6], rfl, by decide⟩⟩
/-- The premise of ScoresFitInRegisters and of the statements over versions, at the widest symbol. -/
theorem witness_widest_symbol : symbolWidth 40 ≤ 177 ∧ 1 ≤ 40 ∧ 40 ≤ 40 := by decide
/-- A table that keeps its legal entries through a step: the entries of test_segSplit_fold. -/
theorem witness_StepKeepsTableLegal :
    (⟨1#2, 0x200#16, 3#16⟩ : SegEntry).legal Config.defaultParams ∧ ¬ (⟨3#2, 0#16, 1#16⟩ : SegEntry).legal Config.defaultParams := by
  unfold SegEntry.legal; decide

end Sys2Proof.Tests
end

section
/-! SUPPORT. The segmenter's output tiles its input (42_segmenter.md R137), and a segment of a legal range makes a legal table entry
(10_state.md R39). -/

namespace Sys2Proof.Machine

/-! ### A run of a class stays inside the text -/

theorem alnumAt_lt {t : List Byte} {i : Nat} (h : alnumAt t i = true) : i < t.length := by
  rcases clsAt_cases t i with hc | hc | hc | hc <;> simp_all

theorem digitAt_lt {t : List Byte} {i : Nat} (h : digitAt t i = true) : i < t.length := by
  rcases clsAt_cases t i with hc | hc | hc | hc <;> simp_all

theorem byteAt_lt {t : List Byte} {i : Nat} (h : byteAt t i = true) : i < t.length := by
  rcases clsAt_cases t i with hc | hc | hc | hc <;> simp_all

theorem alnumAt_of_digitAt {t : List Byte} {i : Nat} (h : digitAt t i = true) : alnumAt t i = true := by
  rcases clsAt_cases t i with hc | hc | hc | hc <;> simp_all

/-- A run of a class that only positions of the text have ends at the end of the text at the latest. -/
theorem RunTo.le_length {P : Nat → Bool} {p q n : Nat} (h : RunTo P p q) (hp : P p = true)
    (hP : ∀ {j}, P j = true → j < n) : q ≤ n := by
  have hlt := runTo_lt h hp
  have := hP (h.2.1 (q - 1) (by omega) (by omega))
  omega

/-- A run has one end. -/
theorem RunTo.end_unique {P : Nat → Bool} {p q r : Nat} (hq : RunTo P p q) (hr : RunTo P p r) : q = r := by
  obtain ⟨hpq, hall, hend⟩ := hq
  obtain ⟨hpr, hall', hend'⟩ := hr
  rcases Nat.lt_trichotomy q r with h | h | h
  · simp [hall' q hpq h] at hend
  · exact h
  · simp [hall r hpr h] at hend'

/-! ### The absorb operations take at least one byte and stay inside the text -/

theorem ByteLoop.bounds {w : Widths} {t : List Byte} {st p e : Nat} (h : ByteLoop w t st p e) :
    p ≤ e ∧ (p ≤ t.length → e ≤ t.length) := by
  induction h with
  | atEnd | digitsCheaper | alnumCheaper => exact ⟨Nat.le_refl _, id⟩
  | digitsKept hd hr _ _ ih =>
    have := hr.1
    exact ⟨by omega, fun _ => ih.2 (hr.le_length hd digitAt_lt)⟩
  | alnumKept ha _ hr _ _ ih =>
    have := hr.1
    exact ⟨by omega, fun _ => ih.2 (hr.le_length ha alnumAt_lt)⟩
  | byteTaken hb _ ih =>
    have := byteAt_lt hb
    exact ⟨by omega, fun _ => ih.2 this⟩

theorem AlnumLoop.bounds {w : Widths} {t : List Byte} {st p e : Nat} (h : AlnumLoop w t st p e) :
    p ≤ e ∧ (p ≤ t.length → e ≤ t.length) := by
  induction h with
  | atEnd | digitsCheaper => exact ⟨Nat.le_refl _, id⟩
  | digitsKept hd hr _ _ ih =>
    have := hr.1
    exact ⟨by omega, fun _ => ih.2 (hr.le_length hd digitAt_lt)⟩
  | letterTaken ha _ _ ih =>
    have := alnumAt_lt ha
    exact ⟨by omega, fun _ => ih.2 this⟩

/-- What one absorb takes: at least one byte, and none past the text. -/
def TakesSome (t : List Byte) (st n : Nat) : Prop := 1 ≤ n ∧ st + n ≤ t.length

theorem AbsorbsByte.takesSome {w : Widths} {t : List Byte} {st n : Nat} (h : AbsorbsByte w t st n)
    (hst : st < t.length) : TakesSome t st n := by
  obtain ⟨hle, hlen⟩ := ByteLoop.bounds h
  exact ⟨by omega, hlen hst⟩

/-- absorb-alphanumeric takes a byte unless its first digits would be cheaper as a Numeric run, which absorb-numeric has ruled out
before it hands over (42_segmenter.md R133, R134). -/
theorem AbsorbsAlnum.takesSome {w : Widths} {t : List Byte} {st n : Nat} {m : SegMode} (h : AbsorbsAlnum w t st m n)
    (ha : alnumAt t st = true)
    (hd : ∀ q, digitAt t st = true → RunTo (digitAt t) st q → alnumBits (q - st) ≤ numericBits (q - st) + 4 + w.ln) :
    TakesSome t st n := by
  cases h with
  | toByte _ _ _ hb => exact hb.takesSome (alnumAt_lt ha)
  | stays hl _ =>
    refine ⟨?_, hl.bounds.2 (Nat.le_of_lt (alnumAt_lt ha))⟩
    generalize he : st + n = e at hl
    cases hl with
    | atEnd h => simp [ha] at h
    | digitsCheaper hdig hr hlt =>
      have := hd _ hdig hr
      omega
    | digitsKept hdig hr _ hrest =>
      have := runTo_lt hr hdig
      have := hrest.bounds.1
      omega
    | letterTaken _ _ hrest =>
      have := hrest.bounds.1
      omega

theorem alnumBits_succ (n : Nat) : alnumBits n + 5 ≤ alnumBits (n + 1) := by
  unfold alnumBits
  omega

theorem AbsorbsNumeric.takesSome {w : Widths} {t : List Byte} {st n : Nat} {m : SegMode} (h : AbsorbsNumeric w t st m n)
    (hst : digitAt t st = true) : TakesSome t st n := by
  cases h with
  | toByte _ _ _ hb => exact hb.takesSome (digitAt_lt hst)
  | @toAlnum run _ _ hr _ hlt ha =>
    refine ha.takesSome (alnumAt_of_digitAt hst) fun q _ hq => ?_
    obtain rfl := hq.end_unique hr
    have := alnumBits_succ run
    rw [Nat.add_sub_cancel_left]
    omega
  | stays hr _ _ =>
    have := runTo_lt hr hst
    exact ⟨by omega, hr.le_length hst digitAt_lt⟩

/-- Every absorb inside the text takes at least one byte and stays inside it (42_segmenter.md R137). -/
theorem absorb_takesSome (w : Widths) (t : List Byte) (st : Nat) (hst : st < t.length) :
    TakesSome t st (absorb w (t.map classOf) st).len := by
  unfold absorb
  rcases clsAt_cases t st with ⟨hc, hd, -⟩ | ⟨hc, hd, ha, -⟩ | ⟨hc, -⟩ | ⟨-, -, -, -, hl⟩
  · rw [hc]
    exact (absorbNum_spec w t st).takesSome hd
  · rw [hc]
    exact (absorbAn_spec w t st).takesSome ha fun q h => by simp [hd] at h
  · rw [hc]
    exact (absorbByte_spec w t st).2.takesSome hst
  · omega

/-! ### The scan -/

theorem splitFrom_tiles (w : Widths) (t : List Byte) : ∀ fuel i, t.length ≤ fuel + i → i ≤ t.length →
    Tiles t.length i (splitFrom w (t.map classOf) fuel i) := by
  intro fuel
  induction fuel with
  | zero =>
    intro i h hi
    show i = t.length
    omega
  | succ f ih =>
    intro i h hi
    rw [splitFrom, List.length_map]
    by_cases hlt : i < t.length
    · obtain ⟨hpos, hfit⟩ := absorb_takesSome w t i hlt
      rw [if_pos hlt]
      have hrest := ih (i + (absorb w (t.map classOf) i).len) (by omega) hfit
      exact ⟨rfl, hpos, hrest⟩
    · rw [if_neg hlt]
      show i = t.length
      omega

/-- The segments of an input tile it (42_segmenter.md R137). -/
theorem split_tiles (w : Widths) (t : List Byte) : Tiles t.length 0 (split w t) :=
  splitFrom_tiles w t t.length 0 (by omega) (by omega)

theorem Tiles.mem_bounds {len : Nat} {gs : List Segment} {i : Nat} (h : Tiles len i gs) :
    i ≤ len ∧ ∀ g ∈ gs, 1 ≤ g.len ∧ g.start + g.len ≤ len := by
  induction gs generalizing i with
  | nil => exact ⟨Nat.le_of_eq h, by simp⟩
  | cons g gs ih =>
    obtain ⟨hs, hpos, hrest⟩ := h
    obtain ⟨hle, hall⟩ := ih hrest
    refine ⟨by omega, List.forall_mem_cons.2 ⟨⟨hpos, by omega⟩, hall⟩⟩

/-- Every segment is at least one byte long and ends inside the input. -/
theorem split_mem_bounds {w : Widths} {t : List Byte} {g : Segment} (h : g ∈ split w t) :
    1 ≤ g.len ∧ g.start + g.len ≤ t.length :=
  (split_tiles w t).mem_bounds.2 g h

/-- The table entry of a segment of a legal range is legal: the fields hold it without loss (10_state.md R39). -/
theorem Segment.entry_legal {p : Params} (hp : p.legal) {base : Nat} {t : List Byte} {w : Widths}
    (hlen : t.length ≤ 65535) (hfit : base + t.length ≤ p.dataRamBytes) :
    ∀ e ∈ (split w t).map (Segment.entry base), e.legal p := by
  intro e he
  obtain ⟨g, hg, rfl⟩ := List.mem_map.1 he
  obtain ⟨hpos, hend⟩ := split_mem_bounds hg
  have hram : p.dataRamBytes ≤ 65536 := hp.2.1.2
  have hl : (g.entry base).length.toNat = g.len := by
    rw [Segment.entry, BitVec.toNat_ofNat, Nat.mod_eq_of_lt (by omega)]
  have hs : (g.entry base).start.toNat = base + g.start := by
    rw [Segment.entry, BitVec.toNat_ofNat, Nat.mod_eq_of_lt (by omega)]
  have hm : (g.entry base).mode ≠ 3#2 := by
    show g.mode.code ≠ 3#2
    cases g.mode <;> decide
  exact ⟨hm, by omega, by omega⟩

end Sys2Proof.Machine
end

section
/-! SUPPORT. The placer's cursor stays inside the grid, so FILL writes inside FRAME_RAM (44_placer.md R191 to R193). -/

namespace Sys2Proof.Machine

/-- The cursor is left of the right edge, with room for the move back to the right in phase 1, and above the bottom edge. -/
def Cursor.Inside (w : Nat) (c : Cursor) : Prop :=
  c.x + (if c.second then 1 else 0) < w ∧ c.y < w

theorem Cursor.inside_start {w : Nat} : (Cursor.start w).Inside w := by
  simp [Cursor.Inside, Cursor.start]

/-- A move leaves the cursor at most one row below the grid, and there only on the way down. -/
theorem Cursor.move_bounds {w : Nat} {c : Cursor} (h : c.Inside w) :
    c.move.x + (if c.move.second then 1 else 0) < w ∧ c.move.y ≤ w ∧ (c.move.up = true → c.move.y < w) := by
  obtain ⟨hx, hy⟩ := h
  obtain ⟨x, y, up, second⟩ := c
  cases second <;> cases up <;> simp [Cursor.move] at hx hy ⊢ <;> omega

theorem Cursor.inside_turn {w : Nat} (hw : 21 ≤ w) {c : Cursor} (hx : c.x + (if c.second then 1 else 0) < w)
    (hy : c.y ≤ w) (hup : c.up = true → c.y < w) : (c.turn w).Inside w := by
  have hs : (if c.second then 1 else 0 : Int) ≤ 1 := by split <;> decide
  unfold Cursor.turn Cursor.Inside
  split
  · split <;> exact ⟨by dsimp only; omega, by dsimp only; omega⟩
  · split
    · split <;> exact ⟨by dsimp only; omega, by dsimp only; omega⟩
    · next hnot =>
      refine ⟨hx, ?_⟩
      by_cases hu : c.up = true
      · exact hup hu
      · have : c.y ≠ w := fun he => hnot ⟨hu, he⟩
        omega

theorem Cursor.inside_advance {w : Nat} (hw : 21 ≤ w) {c : Cursor} (h : c.Inside w) : (c.advance w).Inside w := by
  obtain ⟨hx, hy, hup⟩ := Cursor.move_bounds h
  exact Cursor.inside_turn hw hx hy hup

/-- A cursor inside the grid names one of its modules. -/
theorem Cursor.index_lt {w : Nat} (hw : 0 < w) {c : Cursor} (h : c.Inside w) : c.index w < w * w := by
  obtain ⟨hx, hy⟩ := h
  have hxw : c.x < w := by
    split at hx <;> omega
  have hrow : c.y * w + w ≤ (w * w : Nat) := by
    have : (c.y + 1) * w ≤ w * w := Int.mul_le_mul_of_nonneg_right (by omega) (by omega)
    push_cast
    linarith
  have hpos : 0 < w * w := Nat.mul_pos hw hw
  unfold Cursor.index
  omega

theorem skipReserved_inside {w : Nat} (hw : 21 ≤ w) {reserved : Nat → Bool} {fuel : Nat} {c p : Cursor} (h : c.Inside w)
    (hp : skipReserved w reserved fuel c = some p) : p.Inside w := by
  induction fuel generalizing c with
  | zero => cases hp
  | succ fuel ih =>
    unfold skipReserved at hp
    split at hp
    · cases hp
    · split at hp
      · exact ih (Cursor.inside_advance hw h) hp
      · cases hp
        exact h

theorem nextFree_inside {w : Nat} (hw : 21 ≤ w) {reserved : Nat → Bool} {first : Bool} {c p : Cursor} (h : c.Inside w)
    (hp : nextFree w reserved first c = some p) : p.Inside w := by
  cases first with
  | true => exact skipReserved_inside hw h hp
  | false => exact skipReserved_inside hw (Cursor.inside_advance hw h) hp

/-- Every byte the loop of FILL writes is one of the grid's. -/
theorem placeFrom_mem_lt {w : Nat} (hw : 21 ≤ w) {reserved bit : Nat → Bool} {left t : Nat} {c : Cursor} (h : c.Inside w)
    {cells : List (Nat × Byte)} (hp : placeFrom w reserved bit left t c = some cells) : ∀ d ∈ cells, d.1 < w * w := by
  induction left generalizing t c cells with
  | zero =>
    cases hp
    simp
  | succ left ih =>
    unfold placeFrom at hp
    cases hn : nextFree w reserved (t == 0) c with
    | none => simp [hn] at hp
    | some p =>
      have hin := nextFree_inside hw h hn
      cases hr : placeFrom w reserved bit left (t + 1) p with
      | none => simp [hn, hr] at hp
      | some rest =>
        obtain rfl : (p.index w, placedByte (bit t)) :: rest = cells := by simpa [hn, hr] using hp
        exact List.forall_mem_cons.2 ⟨Cursor.index_lt (by omega) hin, ih hin hr⟩

/-- The widths of the versions the placer and the mask engine accept (10_state.md R28). -/
theorem State.gridWidth_bounds {s : State} (h : s.gridVersionOk = true) : 21 ≤ s.gridWidth ∧ s.gridWidth ≤ 177 := by
  simp only [State.gridVersionOk, Bool.and_eq_true, decide_eq_true_eq] at h
  simp only [State.gridWidth, symbolWidth]
  omega

/-- Such a grid fits in a 32768-byte RAM (20_memory.md R58). -/
theorem State.gridSize_le {s : State} (h : s.gridVersionOk = true) : s.gridWidth * s.gridWidth ≤ 32768 :=
  Nat.le_trans (Nat.mul_le_mul (State.gridWidth_bounds h).2 (State.gridWidth_bounds h).2) (by decide)

end Sys2Proof.Machine
end

section
/-! SUPPORT. What one command does, said once: its body, the writes a body can make, and the errors it can raise. -/

namespace Sys2Proof.Machine

/-- The body of a command (40_control.md R90): all its writes, or the error it raises. -/
def body : Instr → State → Except CmdError State
  | .nop, s => .ok s
  | .softReset, s => .ok s.softReset
  | .bsbClear b, s => .ok (s.setBsb b [])
  | .bsbAppendBit b f, s => s.appendBits b [f]
  | .bsbAppendNum b n, s => if 32 < n then .error .invalidInput else s.appendBits b (lowBits n s.arg0)
  | .bsbAppendBytes b, s => s.appendBytes b
  | .bsbAppendSeq b src, s => s.appendBits b (s.bsb src)
  | .bsbGetBit b, s => s.getBit b
  | .bsbPack b, s => s.pack b
  | .segSplit f, s => s.segSplit f
  | .rsBlock, s => s.rsBlock
  | .rsInterleave, s => s.rsInterleave
  | .fill, s => s.fill
  | .maskEval k, s => s.maskEval k
  | .maskSelect, s => s.maskSelect
  | .maskForce k, s => s.maskForce k

theorem exec_eq_finish_body (i : Instr) (s : State) : exec i s = finish s (body i s) := by cases i <;> rfl

/-- The states that the writes of a command other than SOFT_RESET can make of its snapshot `s`, each write within the bounds the
command has checked. -/
inductive Writes (s : State) : State → Prop where
  | refl : Writes s s
  | setBsb {u} (b : Buf) (bits : List Bool) (h : Writes s u) (fits : bits.length ≤ s.params.bsbCapBits) : Writes s (u.setBsb b bits)
  | writeRam {u} (r : Ram) (a : Nat) (vs : List Byte) (h : Writes s u) (fits : a + vs.length ≤ ramBytes s.params r) :
      Writes s (u.writeRam r a vs)
  | writeRamEach {u} (r : Ram) (cs : List (Nat × Byte)) (h : Writes s u) (fits : ∀ c ∈ cs, c.1 < ramBytes s.params r) :
      Writes s (u.writeRamEach r cs)
  | writeSegs {u} (out : List SegEntry) (h : Writes s u) (fits : out.length ≤ s.params.nsegMax)
      (legal : s.params.legal → ∀ e ∈ out, e.legal s.params) : Writes s (u.writeSegs out)
  | setRes0 {u} (v : Nat) (h : Writes s u) : Writes s (u.setRes0 v)
  | setRes012 {u} (v0 v1 v2 : Nat) (h : Writes s u) : Writes s (u.setRes012 v0 v1 v2)
  | setRes0to6 {u} (v0 v1 v2 v3 v4 v5 v6 : Nat) (h : Writes s u) : Writes s (u.setRes0to6 v0 v1 v2 v3 v4 v5 v6)

/-- What the body of command `i` can answer at `s`: writes within bounds, or an error of the command's row (60_exceptions.md R270). -/
inductive BodyResult (i : Instr) (s : State) : Except CmdError State → Prop where
  | ok {u} (h : Writes s u) : BodyResult i s (.ok u)
  | error {e} (h : e ∈ errorsOf i) : BodyResult i s (.error e)

/-! ### Each command's result -/

theorem State.dataRangeOk_eq_true {s : State} {a n : Nat} (h : ¬ (!s.dataRangeOk a n) = true) :
    a + n ≤ ramBytes s.params .data := by
  simpa [State.dataRangeOk, ramBytes] using h

theorem appendBits_result {i : Instr} {s : State} (b : Buf) (bits : List Bool) (hi : .allocationFailure ∈ errorsOf i) :
    BodyResult i s (s.appendBits b bits) := by
  rcases s.appendBits_eq b bits with ⟨-, h⟩ | ⟨hfit, h⟩
  · exact h ▸ .error hi
  · exact h ▸ .ok (.setBsb b _ .refl (by rwa [List.length_append]))

theorem appendNum_result (b : Buf) (n : Nat) (s : State) : BodyResult (.bsbAppendNum b n) s (body (.bsbAppendNum b n) s) := by
  show BodyResult _ s (if 32 < n then .error .invalidInput else s.appendBits b (lowBits n s.arg0))
  split
  · exact .error (by simp [errorsOf])
  · exact appendBits_result b _ (by simp [errorsOf])

theorem appendBytes_result (b : Buf) (s : State) : BodyResult (.bsbAppendBytes b) s (s.appendBytes b) := by
  unfold State.appendBytes
  split
  · exact .error (by simp [errorsOf])
  · exact appendBits_result b _ (by simp [errorsOf])

theorem getBit_result (b : Buf) (s : State) : BodyResult (.bsbGetBit b) s (s.getBit b) := by
  unfold State.getBit
  split
  · exact .error (by simp [errorsOf])
  · exact .ok (.setRes0 _ .refl)

theorem pack_result (b : Buf) (s : State) : BodyResult (.bsbPack b) s (s.pack b) := by
  unfold State.pack
  dsimp only
  split
  · exact .error (by simp [errorsOf])
  · next h => exact .ok (.setRes0 _ (.writeRam .data _ _ .refl (State.dataRangeOk_eq_true h)))

theorem segSplit_result (f : Bool) (s : State) : BodyResult (.segSplit f) s (s.segSplit f) := by
  unfold State.segSplit
  dsimp only
  split
  · exact .error (by simp [errorsOf])
  next hlen =>
  split
  · exact .error (by simp [errorsOf])
  split
  · exact .error (by simp [errorsOf])
  next hrange =>
  have hfit := State.dataRangeOk_eq_true hrange
  generalize htext : (if f = true then (s.readRam .data s.arg0.toNat s.arg1.toNat).map foldCase
    else s.readRam .data s.arg0.toNat s.arg1.toNat) = text
  have hl : text.length = s.arg1.toNat := by
    rw [← htext]
    split <;> simp
  split
  · exact .error (by simp [errorsOf])
  next hout =>
  have hseg : Writes s (((s.writeSegs ((split (widthsFor s.params.anResumeLi s.version.toNat) text).map
      (Segment.entry s.arg0.toNat)))).setRes0 (split (widthsFor s.params.anResumeLi s.version.toNat) text).length) :=
    .setRes0 _ (.writeSegs _ .refl (by rw [List.length_map]; omega) fun hp =>
      Segment.entry_legal hp (by omega) (by rw [hl]; exact hfit))
  split
  · exact .ok (.writeRam .data _ _ hseg (by rw [hl]; exact hfit))
  · exact .ok hseg

theorem mulRoot_length (g : List Byte) (c : Byte) : (mulRoot g c).length = g.length + 1 := by simp [mulRoot]

theorem generator_length (n : Nat) : (generator n).length = n + 1 := by
  induction n with
  | zero => rfl
  | succ n ih => rw [generator, mulRoot_length, ih]

theorem rsShift_length {g reg : List Byte} (d : Byte) (h : reg.length = g.length) : (rsShift g reg d).length = g.length := by
  simp only [rsShift, List.length_zipWith, List.length_append, List.length_tail, List.length_singleton]
  omega

theorem foldl_rsShift_length {g reg : List Byte} (d : List Byte) (h : reg.length = g.length) :
    (d.foldl (rsShift g) reg).length = g.length := by
  induction d generalizing reg with
  | nil => exact h
  | cons v d ih => exact ih (rsShift_length v h)

/-- The parity has as many bytes as the generator's degree (43_reed_solomon.md R162). -/
theorem rsParity_length (d : List Byte) (n : Nat) : (rsParity d n).length = n := by
  have hg : (generator n).tail.length = n := by rw [List.length_tail, generator_length, Nat.add_sub_cancel]
  exact (foldl_rsShift_length d (List.length_replicate.trans hg.symm)).trans hg

theorem rsBlock_result (s : State) : BodyResult .rsBlock s s.rsBlock := by
  unfold State.rsBlock
  dsimp only
  split
  · exact .error (by simp [errorsOf])
  split
  · exact .error (by simp [errorsOf])
  next h =>
  rw [Bool.or_eq_true, not_or] at h
  exact .ok (.setRes0 _ (.writeRam .data _ _ .refl (by rw [rsParity_length]; exact State.dataRangeOk_eq_true h.2)))

theorem Geometry.interleave_length (g : Geometry) (stream : List Byte) :
    (g.interleave stream).length = g.dataLen + g.parityLen := by
  simp [Geometry.interleave, Geometry.dataPart, Geometry.parityPart]

theorem rsInterleave_result (s : State) : BodyResult .rsInterleave s s.rsInterleave := by
  unfold State.rsInterleave
  dsimp only
  split
  · exact .error (by simp [errorsOf])
  split
  · exact .error (by simp [errorsOf])
  next h =>
  rw [Bool.or_eq_true, not_or] at h
  exact .ok (.setRes012 _ _ _ (.writeRam .data _ _ .refl (by
    rw [Geometry.interleave_length]
    exact State.dataRangeOk_eq_true h.2)))

theorem fill_result (s : State) : BodyResult .fill s s.fill := by
  unfold State.fill
  dsimp only
  split
  · exact .error (by simp [errorsOf])
  next hv =>
  have hv : s.gridVersionOk = true := by simpa using hv
  split
  · exact .error (by simp [errorsOf])
  split
  · exact .error (by simp [errorsOf])
  next cells hcells =>
  refine .ok (.setRes0 _ (.writeRamEach .frame cells .refl fun c hc => ?_))
  exact Nat.lt_of_lt_of_le (placeFrom_mem_lt (State.gridWidth_bounds hv).1 Cursor.inside_start hcells c hc) (State.gridSize_le hv)

theorem State.candidate_flatten_length (s : State) (k : Fin 8) :
    (s.candidate k).flatten.length = s.gridWidth * s.gridWidth := by
  simp [State.candidate, Grid.ofFn, Function.comp_def]

/-- A candidate of an accepted version may be written to CAND_RAM or SYM_RAM. -/
theorem Writes.writeCandidate {s u : State} {r : Ram} (k : Fin 8) (h : Writes s u) (hv : s.gridVersionOk = true)
    (hr : ramBytes s.params r = 32768) : Writes s (u.writeGrid r (s.candidate k)) :=
  .writeRam r 0 _ h (by rw [hr, Nat.zero_add, State.candidate_flatten_length]; exact State.gridSize_le hv)

theorem maskEval_result (k : Fin 8) (s : State) : BodyResult (.maskEval k) s (s.maskEval k) := by
  unfold State.maskEval
  split
  · exact .error (by simp [errorsOf])
  · next hv =>
    have hv : s.gridVersionOk = true := by simpa using hv
    exact .ok (.setRes0to6 _ _ _ _ _ _ _ (Writes.refl.writeCandidate k hv rfl))

theorem maskSelect_result (s : State) : BodyResult .maskSelect s s.maskSelect := by
  unfold State.maskSelect
  split
  · exact .error (by simp [errorsOf])
  · next hv =>
    have hv : s.gridVersionOk = true := by simpa using hv
    exact .ok (.setRes0to6 _ _ _ _ _ _ _ ((Writes.refl.writeCandidate _ hv rfl).writeCandidate 7 hv rfl))

theorem maskForce_result (k : Fin 8) (s : State) : BodyResult (.maskForce k) s (s.maskForce k) := by
  unfold State.maskForce
  split
  · exact .error (by simp [errorsOf])
  · next hv =>
    have hv : s.gridVersionOk = true := by simpa using hv
    exact .ok (.setRes0to6 _ _ _ _ _ _ _ (Writes.refl.writeCandidate k hv rfl))

/-- Every command but SOFT_RESET writes within its bounds or raises an error of its row. -/
theorem body_result {i : Instr} (hi : i ≠ .softReset) (s : State) : BodyResult i s (body i s) := by
  cases i with
  | nop => exact .ok .refl
  | softReset => exact absurd rfl hi
  | bsbClear b => exact .ok (.setBsb b [] .refl (Nat.zero_le _))
  | bsbAppendBit b f => exact appendBits_result b [f] (by simp [errorsOf])
  | bsbAppendNum b n => exact appendNum_result b n s
  | bsbAppendBytes b => exact appendBytes_result b s
  | bsbAppendSeq b src => exact appendBits_result b _ (by simp [errorsOf])
  | bsbGetBit b => exact getBit_result b s
  | bsbPack b => exact pack_result b s
  | segSplit f => exact segSplit_result f s
  | rsBlock => exact rsBlock_result s
  | rsInterleave => exact rsInterleave_result s
  | fill => exact fill_result s
  | maskEval k => exact maskEval_result k s
  | maskSelect => exact maskSelect_result s
  | maskForce k => exact maskForce_result k s

/-- Everything the execution of a command can do. -/
theorem exec_cases {i : Instr} {s t : State} (h : exec i s = .next t) :
    (∃ u, Writes s u ∧ t = u.completeOk) ∨ (i = .softReset ∧ t = s.softReset.completeOk) ∨
    (∃ e ∈ errorsOf i, t = s.raiseError e) := by
  rw [exec_eq_finish_body] at h
  by_cases hi : i = .softReset
  · subst hi
    exact .inr (.inl ⟨rfl, by simpa [finish, body] using h.symm⟩)
  · have hr := body_result hi s
    generalize body i s = r at h hr
    cases hr with
    | @ok u hw => exact .inl ⟨u, hw, by simpa [finish] using h.symm⟩
    | @error e he => exact .inr (.inr ⟨e, he, by simpa [finish] using h.symm⟩)

end Sys2Proof.Machine
end

section
/-! SUPPORT. What the writes of a command, and what an action of the outside, do to the invariants of Sys2Proof/Safety.lean. -/

namespace Sys2Proof.Machine

/-! ### The writes of a command -/

/-- No command but SOFT_RESET writes a setting (10_state.md R21). -/
theorem Writes.keepsSettings {s u : State} (h : Writes s u) : KeepsSettings s u := by
  induction h with
  | refl => exact ⟨rfl, rfl, rfl, rfl, rfl, rfl, rfl, rfl, rfl, rfl, rfl⟩
  | setBsb b | writeRam r | writeRamEach r | writeSegs | setRes0 | setRes012 | setRes0to6 =>
    next ih =>
      obtain ⟨⟩ := ih
      constructor <;> simp [*]

/-- The body of such a command leaves STATUS to its end. -/
theorem Writes.keepsStatus {s u : State} (h : Writes s u) : u.status = s.status := by
  induction h with
  | refl => rfl
  | setBsb | writeRam | writeRamEach | writeSegs | setRes0 | setRes012 | setRes0to6 => simpa

/-- The part of the invariant that speaks of what a command's writes can change: RAMs, buffers, table and results. -/
structure State.StorageInv (s : State) : Prop where
  params_legal : s.params.legal
  rams_wf : ∀ r, (s.ram r).wf (ramBytes s.params r)
  buffers_fit : ∀ b, (s.bsb b).length ≤ s.params.bsbCapBits
  table_fits : s.segs.length ≤ s.params.nsegMax
  count_written : s.segCount.toNat ≤ s.segs.length
  res7_zero : s.res.res7 = 0#32

theorem State.Inv.storage {s : State} (h : s.Inv) : s.StorageInv := { h with }

/-- Replacing one RAM by one in canonical form. -/
theorem State.StorageInv.setRam {s : State} (h : s.StorageInv) {r : Ram} {m : Memory} (hm : m.wf (ramBytes s.params r)) :
    (s.setRam r m).StorageInv where
  params_legal := by simpa using h.params_legal
  rams_wf q := by
    rw [State.setRam_params]
    by_cases hq : q = r
    · rw [hq, State.setRam_ram_same]
      exact hm
    · rw [State.setRam_ram_other _ _ _ _ hq]
      exact h.rams_wf q
  buffers_fit := by simpa using h.buffers_fit
  table_fits := by simpa using h.table_fits
  count_written := by simpa using h.count_written
  res7_zero := by simpa using h.res7_zero

theorem State.StorageInv.setBsb {s : State} (h : s.StorageInv) (b : Buf) {bits : List Bool} (hb : bits.length ≤ s.params.bsbCapBits) :
    (s.setBsb b bits).StorageInv where
  params_legal := by simpa using h.params_legal
  rams_wf := by simpa using h.rams_wf
  buffers_fit c := by
    rw [State.setBsb_params]
    by_cases hc : c = b
    · rw [hc, State.setBsb_bsb_same]
      exact hb
    · rw [State.setBsb_bsb_other _ _ _ _ hc]
      exact h.buffers_fit c
  table_fits := by simpa using h.table_fits
  count_written := by simpa using h.count_written
  res7_zero := by simpa using h.res7_zero

theorem State.StorageInv.writeSegs {s : State} (h : s.StorageInv) {out : List SegEntry} (ho : out.length ≤ s.params.nsegMax) :
    (s.writeSegs out).StorageInv where
  params_legal := h.params_legal
  rams_wf := by simpa using h.rams_wf
  buffers_fit := by simpa using h.buffers_fit
  table_fits := by
    have := h.table_fits
    simp only [State.writeSegs_segs, State.writeSegs_params, List.length_append, List.length_drop]
    omega
  count_written := by
    have := Nat.mod_le out.length (2 ^ 32)
    simp only [State.writeSegs_segs, State.writeSegs_segCount, BitVec.toNat_ofNat, List.length_append]
    omega
  res7_zero := h.res7_zero

/-- Writing results other than RES7. -/
theorem State.StorageInv.setRes {s : State} (h : s.StorageInv) {res : Results} (hr : res.res7 = s.res.res7) :
    { s with res := res }.StorageInv :=
  { h with res7_zero := hr.trans h.res7_zero }

/-- The writes of a command keep the storage part of the invariant. -/
theorem Writes.storageInv {s u : State} (h : Writes s u) (hs : s.StorageInv) : u.StorageInv := by
  induction h with
  | refl => exact hs
  | setBsb b bits h fits ih => exact ih.setBsb b (by rw [h.keepsSettings.params]; exact fits)
  | @writeRam u r a vs h fits ih =>
    have hp := h.keepsSettings.params
    exact ih.setRam (Memory.wf_writeRange a vs (ih.rams_wf r) (.inr (by rw [hp]; exact fits)))
  | @writeRamEach u r cs h fits ih =>
    have hp := h.keepsSettings.params
    exact ih.setRam (Memory.wf_writeEach cs (ih.rams_wf r) (by rw [hp]; exact fits))
  | writeSegs out h fits _ ih => exact ih.writeSegs (by rw [h.keepsSettings.params]; exact fits)
  | setRes0 _ _ ih | setRes012 _ _ _ _ ih | setRes0to6 _ _ _ _ _ _ _ _ ih => exact ih.setRes rfl

theorem State.StorageInv.softReset {s : State} (h : s.StorageInv) : s.softReset.StorageInv where
  params_legal := h.params_legal
  rams_wf := h.rams_wf
  buffers_fit b := by cases b <;> exact Nat.zero_le _
  table_fits := h.table_fits
  count_written := Nat.zero_le _
  res7_zero := rfl

/-- The writes of a command keep the written table entries legal. -/
theorem Writes.tableInv {s u : State} (h : Writes s u) (hp : s.params.legal) (hs : s.TableInv) : u.TableInv := by
  induction h with
  | refl => exact hs
  | writeSegs out h _ legal ih =>
    intro e he
    rw [State.writeSegs_params]
    rcases List.mem_append.1 he with he | he
    · rw [h.keepsSettings.params]
      exact legal hp e he
    · exact ih e (List.mem_of_mem_drop he)
  | setBsb _ _ _ _ ih | writeRam _ _ _ _ _ ih | writeRamEach _ _ _ _ ih | setRes0 _ _ ih | setRes012 _ _ _ _ ih
  | setRes0to6 _ _ _ _ _ _ _ _ ih => simpa [State.TableInv] using ih

/-! ### How a command ends -/

theorem State.StorageInv.completeOk_inv {s : State} (h : s.StorageInv) : s.completeOk.Inv where
  params_legal := h.params_legal
  rams_wf := by simpa using h.rams_wf
  buffers_fit := by simpa using h.buffers_fit
  table_fits := h.table_fits
  count_written := h.count_written
  res7_zero := h.res7_zero
  err_iff_code := by simp
  code_known := by simp [errCodes]
  err_done := by simp
  busy_clears := by simp [State.busy]
  reset_idle := by simp

theorem CmdError.code_ne_zero (e : CmdError) : e.code ≠ 0#8 := by cases e <;> decide

theorem State.StorageInv.raiseError_inv {s : State} (h : s.StorageInv) {e : CmdError} (he : e.code ∈ errCodes) :
    (s.raiseError e).Inv where
  params_legal := h.params_legal
  rams_wf := by simpa using h.rams_wf
  buffers_fit := by simpa using h.buffers_fit
  table_fits := h.table_fits
  count_written := h.count_written
  res7_zero := h.res7_zero
  err_iff_code := by simp [CmdError.code_ne_zero]
  code_known := he
  err_done := by simp
  busy_clears := by simp [State.busy]
  reset_idle := by simp

/-- Every error of a command's row has a code that ERRCODE may hold (60_exceptions.md R252). -/
theorem errorsOf_code_known (i : Instr) : ∀ e ∈ errorsOf i, e.code ∈ errCodes := by
  cases i <;> simp [errorsOf, CmdError.code, errCodes]

/-- Every command keeps the invariant. -/
theorem exec_inv {i : Instr} {s t : State} (hs : s.Inv) (h : exec i s = .next t) : t.Inv := by
  rcases exec_cases h with ⟨u, hu, rfl⟩ | ⟨-, rfl⟩ | ⟨e, he, rfl⟩
  · exact (hu.storageInv hs.storage).completeOk_inv
  · exact hs.storage.softReset.completeOk_inv
  · exact hs.storage.raiseError_inv (errorsOf_code_known i e he)

/-! ### The outside's actions -/

theorem State.resetWith_inv {p : Params} (hp : p.legal) (draw : Nat) (queue : List HostEvent) :
    (State.resetWith p draw queue).Inv where
  params_legal := hp
  rams_wf := State.resetWith_rams_wf p draw queue
  buffers_fit b := by cases b <;> exact Nat.zero_le _
  table_fits := Nat.zero_le _
  count_written := Nat.zero_le _
  res7_zero := rfl
  err_iff_code := by simp [State.resetWith]
  code_known := by simp [State.resetWith, errCodes]
  err_done := by simp [State.resetWith]
  busy_clears := by simp [State.resetWith]
  reset_idle := by simp [State.resetWith]

/-- The invariant does not speak of the port. -/
theorem State.Inv.withPort {s : State} (h : s.Inv) (q : List HostEvent) (r : Option BusResponse) :
    { s with hostQueue := q, response := r }.Inv := { h with }

/-- The invariant does not speak of the sticky bits. -/
theorem State.Inv.withSticky {s : State} (h : s.Inv) (b a : Bool) :
    { s with status := { s.status with busErr := b, anyErr := a } }.Inv := { h with }

theorem State.Inv.issue {s : State} (h : s.Inv) (hr : s.rstLow = false) (c : Word) : (s.issue c).Inv :=
  { h with
    err_iff_code := by simp
    code_known := by simp [errCodes]
    err_done := by simp
    busy_clears := by simp
    reset_idle := by simp [hr] }

theorem State.Inv.writeRegister {s : State} (h : s.Inv) (hr : s.rstLow = false) (off : Nat) (v : Word) :
    (s.writeRegister off v).Inv := by
  unfold State.writeRegister
  split
  · exact h.issue hr v
  · exact h.withSticky _ _
  all_goals exact { h with }

theorem State.Inv.setRam {s : State} (h : s.Inv) {r : Ram} {m : Memory} (hm : m.wf (ramBytes s.params r)) :
    (s.setRam r m).Inv :=
  { h.storage.setRam hm with
    err_iff_code := by simpa using h.err_iff_code
    code_known := by simpa using h.code_known
    err_done := by simpa using h.err_done
    busy_clears := by simpa [State.busy] using h.busy_clears
    reset_idle := by simpa using h.reset_idle }

/-- The stored part of a window write ends inside the RAM (20_memory.md R53). -/
theorem State.Inv.writeWindow {s : State} (h : s.Inv) (r : Ram) (o : Nat) (vs : List Byte) : (s.writeWindow r o vs).Inv := by
  unfold State.writeWindow
  split
  · refine h.setRam (Memory.wf_writeRange o _ (h.rams_wf r) ?_)
    by_cases ho : o < ramBytes s.params r
    · exact .inr (by rw [List.length_take]; omega)
    · exact .inl (by rw [Nat.sub_eq_zero_of_le (by omega), List.take_zero])
  · exact h

theorem State.Inv.writeData {s : State} (h : s.Inv) (hr : s.rstLow = false) (a : Nat) (size : BusSize) (v : Word) :
    (s.writeData a size v).Inv := by
  unfold State.writeData
  split
  · exact h.writeRegister hr a v
  · exact h
  · exact h.writeWindow _ _ _
  · exact h

theorem State.Inv.busError {s : State} (h : s.Inv) : s.busError.Inv := h.withSticky true s.status.anyErr

/-- Every action of the outside keeps the invariant. -/
theorem State.Inv.hostAct {s : State} (h : s.Inv) (act : HostAction) : (s.hostAct act).Inv := by
  cases act with
  | read addr size =>
    show (s.busRead addr size).Inv
    unfold State.busRead
    split
    · exact h.withPort _ _
    · split
      · exact h.withPort _ _
      · exact h.busError.withPort _ _
  | write addr size v =>
    show (s.busWrite addr size v).Inv
    unfold State.busWrite
    split
    · exact h.withPort _ _
    · next hr =>
      split
      · exact (h.writeData (by simpa using hr) _ size v).withPort _ _
      · exact h.busError.withPort _ _
  | assertReset =>
    show (if s.rstLow = true then s else { s.hardReset with rstLow := true }).Inv
    split
    · exact h
    · exact { State.resetWith_inv h.params_legal (s.draws + 1) s.hostQueue with reset_idle := fun _ => rfl }
  | releaseReset => exact { h with reset_idle := fun hlow => Bool.noConfusion hlow }

theorem State.hostStep_cons {s : State} {ev : HostEvent} {rest : List HostEvent} (h : s.hostQueue = ev :: rest) :
    s.hostStep = { s with hostQueue := rest }.hostAct ev.action := by
  simp [State.hostStep, h]

/-- What the outside's turn can be: nothing, or the action at the head of its queue. -/
theorem State.hostStep_cases (s : State) : s.hostStep = s ∨
    ∃ ev rest, s.hostQueue = ev :: rest ∧ s.hostStep = { s with hostQueue := rest }.hostAct ev.action := by
  cases h : s.hostQueue with
  | nil => exact .inl (by simp [State.hostStep, h])
  | cons ev rest => exact .inr ⟨ev, rest, rfl, State.hostStep_cons h⟩

theorem State.Inv.hostStep {s : State} (h : s.Inv) : s.hostStep.Inv := by
  rcases s.hostStep_cases with he | ⟨ev, rest, -, he⟩
  · rw [he]
    exact h
  · exact he ▸ (h.withPort rest s.response).hostAct ev.action

/-! ### Parameters and table under the outside's actions -/

theorem State.writeData_keeps (s : State) (a : Nat) (size : BusSize) (v : Word) :
    (s.writeData a size v).params = s.params ∧ (s.writeData a size v).segs = s.segs := by
  unfold State.writeData
  split
  · unfold State.writeRegister
    split <;> exact ⟨rfl, rfl⟩
  · exact ⟨rfl, rfl⟩
  · unfold State.writeWindow
    split <;> simp
  · exact ⟨rfl, rfl⟩

/-- An action of the outside keeps the parameters, and the written table entries unless it is a reset, which leaves none written. -/
theorem State.hostAct_keeps (s : State) (act : HostAction) :
    (s.hostAct act).params = s.params ∧ ((s.hostAct act).segs = s.segs ∨ (s.hostAct act).segs = []) := by
  cases act with
  | read addr size =>
    show (s.busRead addr size).params = s.params ∧ ((s.busRead addr size).segs = s.segs ∨ _)
    unfold State.busRead
    split
    · exact ⟨rfl, .inl rfl⟩
    · split <;> exact ⟨rfl, .inl rfl⟩
  | write addr size v =>
    show (s.busWrite addr size v).params = s.params ∧ ((s.busWrite addr size v).segs = s.segs ∨ _)
    obtain ⟨hp, hs⟩ := s.writeData_keeps addr.toNat size v
    unfold State.busWrite
    split
    · exact ⟨rfl, .inl rfl⟩
    · split
      · exact ⟨hp, .inl hs⟩
      · exact ⟨rfl, .inl rfl⟩
  | assertReset =>
    simp only [State.hostAct]
    split
    · exact ⟨rfl, .inl rfl⟩
    · exact ⟨rfl, .inr rfl⟩
  | releaseReset => exact ⟨rfl, .inl rfl⟩

theorem State.hostStep_keeps (s : State) :
    s.hostStep.params = s.params ∧ (s.hostStep.segs = s.segs ∨ s.hostStep.segs = []) := by
  rcases s.hostStep_cases with h | ⟨ev, rest, -, h⟩
  · rw [h]
    exact ⟨rfl, .inl rfl⟩
  · exact h ▸ State.hostAct_keeps { s with hostQueue := rest } ev.action

theorem State.TableInv.hostStep {s : State} (h : s.TableInv) : s.hostStep.TableInv := by
  obtain ⟨hp, hs⟩ := s.hostStep_keeps
  unfold State.TableInv
  rw [hp]
  rcases hs with hs | hs
  · rw [hs]
    exact h
  · rw [hs]
    simp

theorem exec_tableInv {i : Instr} {s t : State} (hs : s.TableInv) (hp : s.params.legal) (h : exec i s = .next t) :
    t.TableInv := by
  rcases exec_cases h with ⟨u, hu, rfl⟩ | ⟨-, rfl⟩ | ⟨e, -, rfl⟩
  · exact hu.tableInv hp hs
  · exact hs
  · exact hs

theorem exec_params {i : Instr} {s t : State} (h : exec i s = .next t) : t.params = s.params := by
  rcases exec_cases h with ⟨u, hu, rfl⟩ | ⟨-, rfl⟩ | ⟨e, -, rfl⟩
  · exact hu.keepsSettings.params
  · rfl
  · rfl

/-- The premises of the table invariant's step lemma hold of a state with a written entry. -/
theorem inv_tableInv_of_one_entry :
    { State.reset with segs := [⟨1#2, 0x200#16, 3#16⟩], segCount := 1#32 }.Inv ∧
    { State.reset with segs := [⟨1#2, 0x200#16, 3#16⟩], segCount := 1#32 }.TableInv := by
  refine ⟨{ State.resetWith_inv (p := Config.defaultParams) (by decide) 0 [] with
    table_fits := by decide, count_written := by decide }, fun e he => ?_⟩
  obtain rfl := List.mem_singleton.1 he
  unfold SegEntry.legal
  decide

end Sys2Proof.Machine

open Sys2Proof Sys2Proof.Machine

/-- Settles O12: a command keeps it through the bounds of its writes, and the outside's actions keep it one by one. -/
theorem stepKeepsInvariant : Obligations.StepKeepsInvariant := by
  intro s t hs h
  rcases step_cases h with ⟨c, i, -, -, -, he⟩ | ⟨c, e, -, -, -, rfl⟩ | ⟨-, rfl⟩
  · exact exec_inv hs he
  · exact hs.storage.raiseError_inv (by decide)
  · exact hs.hostStep

/-- Settles O14: only SEG_SPLIT writes entries, and its segments tile a range inside DATA_RAM. -/
theorem stepKeepsTableLegal : Obligations.StepKeepsTableLegal := by
  intro s t hs htab h
  rcases step_cases h with ⟨c, i, -, -, -, he⟩ | ⟨c, e, -, -, -, rfl⟩ | ⟨-, rfl⟩
  · exact exec_tableInv htab hs.params_legal he
  · exact htab
  · exact htab.hostStep

/-- Settles O15: neither a command nor an action of the outside writes a parameter. -/
theorem stepKeepsParameters : Obligations.StepKeepsParameters := by
  intro s t h
  rcases step_cases h with ⟨c, i, -, -, -, he⟩ | ⟨c, e, -, -, -, rfl⟩ | ⟨-, rfl⟩
  · exact exec_params he
  · rfl
  · exact s.hostStep_keeps.1

/-- Settles O21: an error writes STATUS alone, and the writes of a command's body keep the settings. -/
theorem commandsKeepHostRegisters : Obligations.CommandsKeepHostRegisters := by
  intro i s t hi h
  rcases exec_cases h with ⟨u, hu, rfl⟩ | ⟨hsoft, -⟩ | ⟨e, -, rfl⟩
  · exact { hu.keepsSettings with }
  · exact absurd hsoft hi
  · exact ⟨rfl, rfl, rfl, rfl, rfl, rfl, rfl, rfl, rfl, rfl, rfl⟩

/-- Settles O13: every register is 0 and nothing has been written. -/
theorem resetHasInvariant : Obligations.ResetHasInvariant :=
  fun _ draw queue hp => ⟨State.resetWith_inv hp draw queue, by simp [State.TableInv, State.resetWith]⟩
end

section
/-! SUPPORT. What commands do not read: replacing STATUS, or LEVEL where no mask command is run, before a command is the same as
after it. -/

namespace Sys2Proof.Machine

/-- The state with another STATUS and another LEVEL. -/
def State.relabel (f : Status) (l : BitVec 2) (s : State) : State := { s with status := f, level := l }

section
variable (f : Status) (l : BitVec 2) (s : State)

/-! ### What operations read is not replaced -/

@[simp] theorem State.relabel_params : (s.relabel f l).params = s.params := rfl
@[simp] theorem State.relabel_version : (s.relabel f l).version = s.version := rfl
@[simp] theorem State.relabel_arg0 : (s.relabel f l).arg0 = s.arg0 := rfl
@[simp] theorem State.relabel_arg1 : (s.relabel f l).arg1 = s.arg1 := rfl
@[simp] theorem State.relabel_arg2 : (s.relabel f l).arg2 = s.arg2 := rfl
@[simp] theorem State.relabel_arg3 : (s.relabel f l).arg3 = s.arg3 := rfl
@[simp] theorem State.relabel_dataRangeOk : (s.relabel f l).dataRangeOk = s.dataRangeOk := rfl
@[simp] theorem State.relabel_geometry : (s.relabel f l).geometry = s.geometry := rfl
@[simp] theorem State.relabel_gridWidth : (s.relabel f l).gridWidth = s.gridWidth := rfl
@[simp] theorem State.relabel_gridVersionOk : (s.relabel f l).gridVersionOk = s.gridVersionOk := rfl

@[simp] theorem State.relabel_ram (r : Ram) : (s.relabel f l).ram r = s.ram r := by cases r <;> rfl

@[simp] theorem State.relabel_bsb (b : Buf) : (s.relabel f l).bsb b = s.bsb b := by cases b <;> rfl

@[simp] theorem State.relabel_ramByte (r : Ram) : (s.relabel f l).ramByte r = s.ramByte r := by
  funext a
  rw [State.ramByte, State.relabel_ram]
  rfl

@[simp] theorem State.relabel_readRam (r : Ram) (a n : Nat) : (s.relabel f l).readRam r a n = s.readRam r a n := by
  simp [State.readRam]

/-- A candidate reads LEVEL, and not STATUS (45_mask.md R217). -/
@[simp] theorem State.relabel_candidate (k : Fin 8) : (s.relabel f s.level).candidate k = s.candidate k := by
  simp only [State.candidate, State.relabel_gridWidth, State.relabel_ramByte]
  rfl

@[simp] theorem State.relabel_candidateDemerits (k : Fin 8) :
    (s.relabel f s.level).candidateDemerits k = s.candidateDemerits k := by
  simp [State.candidateDemerits]

@[simp] theorem State.relabel_bestMask : (s.relabel f s.level).bestMask = s.bestMask := by
  simp [State.bestMask]

/-! ### Writes commute with the replacement -/

@[simp] theorem State.relabel_setBsb (b : Buf) (bits : List Bool) :
    (s.relabel f l).setBsb b bits = (s.setBsb b bits).relabel f l := by cases b <;> rfl

@[simp] theorem State.relabel_setRam (r : Ram) (m : Memory) :
    (s.relabel f l).setRam r m = (s.setRam r m).relabel f l := by cases r <;> rfl

@[simp] theorem State.relabel_writeRam (r : Ram) (a : Nat) (vs : List Byte) :
    (s.relabel f l).writeRam r a vs = (s.writeRam r a vs).relabel f l := by simp [State.writeRam]

@[simp] theorem State.relabel_writeRamEach (r : Ram) (cs : List (Nat × Byte)) :
    (s.relabel f l).writeRamEach r cs = (s.writeRamEach r cs).relabel f l := by simp [State.writeRamEach]

@[simp] theorem State.relabel_writeSegs (out : List SegEntry) :
    (s.relabel f l).writeSegs out = (s.writeSegs out).relabel f l := rfl

@[simp] theorem State.relabel_setRes0 (v : Nat) : (s.relabel f l).setRes0 v = (s.setRes0 v).relabel f l := rfl

@[simp] theorem State.relabel_setRes012 (v0 v1 v2 : Nat) :
    (s.relabel f l).setRes012 v0 v1 v2 = (s.setRes012 v0 v1 v2).relabel f l := rfl

@[simp] theorem State.relabel_setRes0to6 (v0 v1 v2 v3 v4 v5 v6 : Nat) :
    (s.relabel f l).setRes0to6 v0 v1 v2 v3 v4 v5 v6 = (s.setRes0to6 v0 v1 v2 v3 v4 v5 v6).relabel f l := rfl

/-! ### Bodies commute with the replacement -/

theorem State.relabel_appendBits (b : Buf) (bits : List Bool) :
    (s.relabel f l).appendBits b bits = (s.appendBits b bits).map (State.relabel f l) := by
  simp only [State.appendBits, State.relabel_params, State.relabel_bsb, State.relabel_setBsb]
  split <;> rfl

theorem State.relabel_appendBytes (b : Buf) :
    (s.relabel f l).appendBytes b = (s.appendBytes b).map (State.relabel f l) := by
  simp only [State.appendBytes, State.relabel_dataRangeOk, State.relabel_arg0, State.relabel_arg1, State.relabel_readRam,
    State.relabel_appendBits]
  split <;> rfl

theorem State.relabel_getBit (b : Buf) : (s.relabel f l).getBit b = (s.getBit b).map (State.relabel f l) := by
  simp only [State.getBit, State.relabel_bsb, State.relabel_arg0, State.relabel_setRes0]
  split <;> rfl

theorem State.relabel_pack (b : Buf) : (s.relabel f l).pack b = (s.pack b).map (State.relabel f l) := by
  simp only [State.pack, State.relabel_bsb, State.relabel_dataRangeOk, State.relabel_arg0, State.relabel_writeRam,
    State.relabel_setRes0]
  split <;> rfl

theorem State.relabel_segSplit (c : Bool) : (s.relabel f l).segSplit c = (s.segSplit c).map (State.relabel f l) := by
  simp only [State.segSplit, State.relabel_arg0, State.relabel_arg1, State.relabel_version, State.relabel_dataRangeOk,
    State.relabel_readRam, State.relabel_params, State.relabel_writeSegs, State.relabel_setRes0, State.relabel_writeRam]
  repeat' split
  all_goals rfl

theorem State.relabel_rsBlock : (s.relabel f l).rsBlock = s.rsBlock.map (State.relabel f l) := by
  simp only [State.rsBlock, State.relabel_arg0, State.relabel_arg1, State.relabel_arg2, State.relabel_arg3,
    State.relabel_dataRangeOk, State.relabel_readRam, State.relabel_writeRam, State.relabel_setRes0]
  repeat' split
  all_goals rfl

theorem State.relabel_rsInterleave : (s.relabel f l).rsInterleave = s.rsInterleave.map (State.relabel f l) := by
  simp only [State.rsInterleave, State.relabel_geometry, State.relabel_arg0, State.relabel_arg2,
    State.relabel_dataRangeOk, State.relabel_readRam, State.relabel_writeRam, State.relabel_setRes012]
  repeat' split
  all_goals rfl

theorem State.relabel_fill : (s.relabel f l).fill = s.fill.map (State.relabel f l) := by
  simp only [State.fill, State.relabel_arg0, State.relabel_arg1, State.relabel_arg2, State.relabel_gridWidth,
    State.relabel_gridVersionOk, State.relabel_dataRangeOk, State.relabel_readRam, State.relabel_ramByte,
    State.relabel_writeRamEach, State.relabel_setRes0]
  repeat' split
  all_goals rfl

/-- The mask engine reads LEVEL, so only STATUS may be replaced before it. -/
theorem State.relabel_maskEval (k : Fin 8) :
    (s.relabel f s.level).maskEval k = (s.maskEval k).map (State.relabel f s.level) := by
  simp only [State.maskEval, State.writeGrid, State.setScore, State.relabel_gridVersionOk, State.relabel_candidate,
    State.relabel_candidateDemerits, State.relabel_writeRam, State.relabel_setRes0to6]
  split <;> rfl

theorem State.relabel_maskSelect : (s.relabel f s.level).maskSelect = s.maskSelect.map (State.relabel f s.level) := by
  simp only [State.maskSelect, State.writeGrid, State.setScore, State.relabel_gridVersionOk, State.relabel_candidate,
    State.relabel_candidateDemerits, State.relabel_bestMask, State.relabel_writeRam, State.relabel_setRes0to6]
  split <;> rfl

theorem State.relabel_maskForce (k : Fin 8) :
    (s.relabel f s.level).maskForce k = (s.maskForce k).map (State.relabel f s.level) := by
  simp only [State.maskForce, State.writeGrid, State.relabel_gridVersionOk, State.relabel_candidate,
    State.relabel_writeRam, State.relabel_setRes0to6]
  split <;> rfl

/-- No command but SOFT_RESET reads STATUS, and only the mask engine reads LEVEL (10_state.md R29, R41). -/
theorem body_relabel {i : Instr} (hi : i ≠ .softReset) (hl : isMaskCommand i = false ∨ l = s.level) :
    body i (s.relabel f l) = (body i s).map (State.relabel f l) := by
  cases i with
  | nop => rfl
  | softReset => exact absurd rfl hi
  | bsbClear b => exact congrArg Except.ok (s.relabel_setBsb f l b [])
  | bsbAppendBit b c => exact s.relabel_appendBits f l b [c]
  | bsbAppendNum b n =>
    simp only [body, State.relabel_arg0, State.relabel_appendBits]
    split <;> rfl
  | bsbAppendBytes b => exact s.relabel_appendBytes f l b
  | bsbAppendSeq b src => simp only [body, State.relabel_bsb, State.relabel_appendBits]
  | bsbGetBit b => exact s.relabel_getBit f l b
  | bsbPack b => exact s.relabel_pack f l b
  | segSplit c => exact s.relabel_segSplit f l c
  | rsBlock => exact s.relabel_rsBlock f l
  | rsInterleave => exact s.relabel_rsInterleave f l
  | fill => exact s.relabel_fill f l
  | maskEval k =>
    obtain rfl := hl.resolve_left (by simp [isMaskCommand])
    exact s.relabel_maskEval f k
  | maskSelect =>
    obtain rfl := hl.resolve_left (by simp [isMaskCommand])
    exact s.relabel_maskSelect f
  | maskForce k =>
    obtain rfl := hl.resolve_left (by simp [isMaskCommand])
    exact s.relabel_maskForce f k

end

end Sys2Proof.Machine

open Sys2Proof Sys2Proof.Machine

/-- Settles O19: the body does the same under any STATUS, and the three outcome fields are set without regard to it. -/
theorem noCommandReadsStatus : Obligations.NoCommandReadsStatus := by
  intro i s t f h
  rw [exec_eq_finish_body] at h ⊢
  by_cases hi : i = .softReset
  · subst hi
    obtain rfl : s.softReset.completeOk = t := by simpa [finish, body] using h
    exact ⟨_, rfl, rfl, rfl, rfl, rfl⟩
  · have hb : body i { s with status := f } = (body i s).map (State.relabel f s.level) :=
      body_relabel f s.level s hi (.inr rfl)
    have hr := body_result hi s
    rw [hb]
    generalize body i s = r at h hr
    cases hr with
    | @ok u hw =>
      obtain rfl : u.completeOk = t := by simpa [finish] using h
      refine ⟨_, rfl, ?_, rfl, rfl, rfl⟩
      rw [← hw.keepsSettings.level]
      rfl
    | @error e _ =>
      obtain rfl : s.raiseError e = t := by simpa [finish] using h
      exact ⟨_, rfl, rfl, rfl, rfl, rfl⟩

/-- Settles O20: the body of such a command does the same under any LEVEL, and its end keeps LEVEL. -/
theorem onlyMaskCommandsReadLevel : Obligations.OnlyMaskCommandsReadLevel := by
  intro i s t l hm hi h
  have hb : body i { s with level := l } = (body i s).map (State.relabel s.status l) :=
    body_relabel s.status l s hi (.inl hm)
  have hr := body_result hi s
  rw [exec_eq_finish_body] at h ⊢
  rw [hb]
  generalize body i s = r at h hr
  cases hr with
  | @ok u hw =>
    obtain rfl : u.completeOk = t := by simpa [finish] using h
    rw [← hw.keepsStatus]
    rfl
  | @error e _ =>
    obtain rfl : s.raiseError e = t := by simpa [finish] using h
    rfl
end

section
/-! SUPPORT. Which words with an assigned opcode are illegal (30_encoding.md R77), read off the opcode map. -/

namespace Sys2Proof.Machine

/-- Every row of the opcode map looks at the whole opcode, bits 7:0 (30_encoding.md R75). -/
theorem opcodeTable_mask_opcode : ∀ r ∈ opcodeTable, r.mask.extractLsb' 0 8 = 0xFF#8 := by decide

/-- A row accepts only words with its opcode. -/
theorem opcode_of_accepts {r : OpcodeRow} (hr : r ∈ opcodeTable) {c : Word} (h : r.accepts c = true) :
    c.extractLsb' 0 8 = r.value.extractLsb' 0 8 := by
  have hv : c &&& r.mask = r.value := by simpa [OpcodeRow.accepts] using h
  rw [← hv, BitVec.extractLsb'_and, opcodeTable_mask_opcode r hr]
  exact BitVec.and_allOnes.symm

/-- An opcode of the map uses only the bits `used` when its rows demand a 0 in every other bit above bit 7. -/
theorem usesOnly_of_rows {opc : Byte} {used : List Nat} (hopc : ∃ r ∈ opcodeTable, r.value.extractLsb' 0 8 = opc)
    (hrows : ∀ r ∈ opcodeTable, r.value.extractLsb' 0 8 = opc → ∀ i < 32, 8 ≤ i → i ∉ used →
      r.mask.getLsbD i = true ∧ r.value.getLsbD i = false) : UsesOnly opc used := by
  rintro c hc ⟨i, hi8, hi32, hiu, hbit⟩
  have hnone : opcodeTable.find? (fun r => r.accepts c) = none := by
    refine List.find?_eq_none.2 fun r hr ha => ?_
    have hv : c &&& r.mask = r.value := by simpa [OpcodeRow.accepts] using ha
    obtain ⟨hm, hz⟩ := hrows r hr ((opcode_of_accepts hr ha).symm.trans hc) i hi32 hi8 hiu
    rw [← hv, BitVec.getLsbD_and, hbit, hm] at hz
    exact Bool.noConfusion hz
  have hassigned : opcodeAssigned c = true := by
    obtain ⟨r, hr, hro⟩ := hopc
    exact List.any_eq_true.2 ⟨r, hr, by simp [hc, hro]⟩
  simp [decode, hnone, hassigned]

end Sys2Proof.Machine
end

section
/-! SUPPORT. What SEG_SPLIT writes (42_segmenter.md R138, R140), in terms of its text and its segments. -/

namespace Sys2Proof.Machine

/-- Case folding, read off the byte's value (42_segmenter.md R138). -/
theorem foldCase_eq (c : Byte) : foldCase c =
    if decide (0x61 ≤ c.toNat) && decide (c.toNat ≤ 0x7A) then BitVec.ofNat 8 (c.toNat - 0x20) else c := by
  have hiff : (0x61#8 ≤ c ∧ c ≤ 0x7A#8) ↔ (decide (0x61 ≤ c.toNat) && decide (c.toNat ≤ 0x7A)) = true := by
    simp [BitVec.le_def]
  rw [foldCase]
  by_cases h : 0x61#8 ≤ c ∧ c ≤ 0x7A#8
  · rw [if_pos h, if_pos (hiff.1 h)]
    obtain ⟨hlo, -⟩ := h
    have hlo : 0x61 ≤ c.toNat := by simpa [BitVec.le_def] using hlo
    refine BitVec.eq_of_toNat_eq ?_
    simp
    omega
  · rw [if_neg h, if_neg (mt hiff.2 h)]

/-- The text of SEG_SPLIT is the bytes of its range, folded when asked. -/
theorem State.segText_eq (s : State) (f : Bool) : s.segText f =
    if f then (s.readRam .data s.arg0.toNat s.arg1.toNat).map foldCase else s.readRam .data s.arg0.toNat s.arg1.toNat := by
  cases f <;> simp [State.segText, State.readRam, foldCase_eq]

theorem State.segText_length (s : State) (f : Bool) : (s.segText f).length = s.arg1.toNat := by simp [State.segText]

/-- The state SEG_SPLIT's writes make: the table, SEG_COUNT and RES0, and the folded text over the input. -/
def State.segWritten (s : State) (f : Bool) : State :=
  let t := (s.writeSegs ((s.segOut f).map (Segment.entry s.arg0.toNat))).setRes0 (s.segOut f).length
  if f then t.writeRam .data s.arg0.toNat (s.segText f) else t

/-- SEG_SPLIT on a legal input. -/
theorem State.segSplit_ok {s : State} (f : Bool) (hpos : 1 ≤ s.arg1.toNat) (hmax : s.arg1.toNat ≤ 65535)
    (hv : s.version.toNat ≤ 40) (hrange : s.arg0.toNat + s.arg1.toNat ≤ s.params.dataRamBytes)
    (hout : (s.segOut f).length ≤ s.params.nsegMax) : s.segSplit f = .ok (s.segWritten f) := by
  unfold State.segSplit
  dsimp only
  rw [if_neg (by omega), if_neg (by omega), if_neg (by simpa [State.dataRangeOk] using hrange), ← State.segText_eq,
    ← State.segOut, if_neg (by omega)]
  rfl

section
variable (s : State) (f : Bool)

theorem State.segWritten_segEntry (j : Nat) :
    (s.segWritten f).segEntry j = (s.writeSegs ((s.segOut f).map (Segment.entry s.arg0.toNat))).segEntry j := by
  unfold State.segWritten
  cases f <;> simp

theorem State.segWritten_segCount : (s.segWritten f).segCount = BitVec.ofNat 32 (s.segOut f).length := by
  unfold State.segWritten
  cases f <;> simp

theorem State.segWritten_res :
    (s.segWritten f).res = { s.res with res0 := BitVec.ofNat 32 (s.segOut f).length } := by
  unfold State.segWritten
  cases f <;> simp

theorem State.segWritten_bsb (b : Buf) : (s.segWritten f).bsb b = s.bsb b := by
  unfold State.segWritten
  cases f <;> simp

theorem State.segWritten_ramByte_unfolded (r : Ram) (a : Nat) : (s.segWritten false).ramByte r a = s.ramByte r a := by
  simp [State.segWritten]

/-- When folding, DATA_RAM reads as the text in the input range and as before elsewhere. -/
theorem State.segWritten_ramByte_folded (a : Nat) : (s.segWritten true).ramByte .data a =
    if h : s.arg0.toNat ≤ a ∧ a < s.arg0.toNat + (s.segText true).length then (s.segText true)[a - s.arg0.toNat]'(by omega)
    else s.ramByte .data a := by
  simp [State.segWritten, State.ramByte_writeRam_same]

theorem State.segWritten_ramByte_other {r : Ram} (hr : r ≠ .data) (a : Nat) :
    (s.segWritten f).ramByte r a = s.ramByte r a := by
  unfold State.segWritten
  cases f <;> simp [State.ramByte_writeRam_other _ _ _ _ _ _ hr]

theorem State.segWritten_keepsOutside : KeepsOutside .data s.arg0.toNat s.arg1.toNat s (s.segWritten f) := by
  intro a ha
  cases f with
  | false => exact s.segWritten_ramByte_unfolded .data a
  | true =>
    rw [State.segWritten_ramByte_folded, dif_neg]
    rw [State.segText_length]
    omega

end

/-- The MODE, START and LENGTH that SEG_SPLIT gives segment `j` (10_state.md R39). -/
theorem State.segWritten_entry {s : State} {f : Bool} {j : Nat} {g : Segment} (h : (s.segOut f)[j]? = some g) :
    (s.segWritten f).segEntry j = g.entry s.arg0.toNat := by
  obtain ⟨hj, rfl⟩ := List.getElem?_eq_some_iff.1 h
  rw [State.segWritten_segEntry, State.writeSegs_segEntry, dif_pos (by simpa using hj), List.getElem_map]

end Sys2Proof.Machine

open Sys2Proof Sys2Proof.Machine

/-- Settles O35: the body answers `segWritten`, whose fields are read off one by one. -/
theorem segSplitWritesTable : Obligations.SegSplitWritesTable := by
  refine ⟨by decide, usesOnly_of_rows (by decide) (by decide), fun f s hpos hmax hv hrange hout => ?_⟩
  have hok := State.segSplit_ok f hpos hmax hv hrange hout
  have hw : Writes s (s.segWritten f) := by
    have := segSplit_result f s
    rw [hok] at this
    cases this with
    | ok h => exact h
  refine ⟨(s.segWritten f).completeOk, ?_, ?_, ?_, ?_, ?_, ?_, ?_, ?_, ?_, ?_, ?_, ?_, ?_⟩
  · rw [exec_eq_finish_body, body, hok, finish]
  · intro j g hg
    rw [State.completeOk_segEntry, State.segWritten_entry hg]
    cases hm : g.mode <;> simp [Segment.entry, SegMode.code, hm]
  · intro j hj
    rw [State.completeOk_segEntry, State.segWritten_segEntry, State.writeSegs_segEntry, dif_neg (by simpa using hj)]
  · exact s.segWritten_segCount f
  · rw [State.completeOk_res, State.segWritten_res]
  · simp [KeepsRes1to7, State.segWritten_res]
  · rintro rfl i hi
    have hlen := s.segText_length true
    rw [State.completeOk_ramByte, State.segWritten_ramByte_folded, dif_pos (by omega), List.getElem?_eq_getElem (by omega)]
    simp
  · rintro rfl a
    rw [State.completeOk_ramByte, State.segWritten_ramByte_unfolded]
  · exact fun a ha => s.segWritten_keepsOutside f a ha
  · intro r hr a
    rw [State.completeOk_ramByte, State.segWritten_ramByte_other s f hr]
  · exact fun b => by rw [State.completeOk_bsb, State.segWritten_bsb]
  · exact ⟨rfl, by rw [State.completeOk_status, hw.keepsStatus]⟩
  · exact { hw.keepsSettings with }
end

section
/-! SUPPORT. The bus outside the register window: the bytes an aligned transaction touches share a range, what reads of each
range return, and which writes store nothing (20_memory.md R51, R53, R54). -/

namespace Sys2Proof.Machine

/-! ### The bytes of an aligned transaction -/

/-- The byte offsets of an aligned transaction stay inside its word. -/
theorem BusSize.aligned_word {a : Nat} {size : BusSize} (h : a % size.bytes = 0) {i : Nat} (hi : i < size.bytes) :
    a % 4 + i < 4 := by
  cases size <;> simp only [BusSize.bytes] at h hi <;> omega

theorem regionOf_unmapped {a : Nat} (h : (0x3000 ≤ a ∧ a < 0x10000) ∨ 0x38000 ≤ a) : regionOf a = .unmapped := by
  unfold regionOf
  rcases h with h | h
  · rw [if_neg (by omega), if_neg (by omega), if_pos (by omega)]
  · rw [if_neg (by omega), if_neg (by omega), if_neg (by omega), if_neg (by omega), if_neg (by omega), if_neg (by omega),
      if_neg (by omega)]

/-- An address inside the window of a RAM, as the window's base and an offset. -/
theorem regionOf_of_window {r : Ram} {a : Nat} (h : windowBase r ≤ a) (h' : a < windowBase r + windowSize r) :
    regionOf a = .ram r := by
  obtain ⟨o, rfl⟩ := Nat.exists_eq_add_of_le h
  exact regionOf_window r o (by omega)

/-- Every window begins outside the register window. -/
theorem windowBase_ge (r : Ram) : 0x10000 ≤ windowBase r := by cases r <;> decide

/-- A window is a whole number of words. -/
theorem window_words (r : Ram) : windowBase r % 4 = 0 ∧ windowSize r % 4 = 0 := by cases r <;> decide

/-! ### Reads -/

/-- A legal read outside the register window answers the bytes of the address map (20_memory.md R53). -/
theorem State.busRead_outside {s : State} {addr : BitVec 18} {size : BusSize} (hr : s.rstLow = false)
    (hout : 0x1000 ≤ addr.toNat) (ha : addr.toNat % size.bytes = 0) :
    s.busRead addr size = { s with response := some (.readReply (s.busBytes addr.toNat size.bytes) false) } := by
  have hreg : regionOf addr.toNat ≠ .registers := by
    unfold regionOf
    rw [if_neg (by omega)]
    repeat' split
    all_goals exact Region.noConfusion
  rw [State.busRead_legal s addr size hr (by rw [legalAccess_outside_registers _ _ hout, ha]; rfl)]
  have hd : s.readData addr.toNat size = s.busBytes addr.toNat size.bytes := by
    unfold State.readData
    split
    · exact absurd ‹_› hreg
    all_goals rfl
  rw [hd]

/-- A byte-wise equal window gives the same word. -/
theorem State.busBytes_congr (s : State) {a n : Nat} {f : Nat → Nat} (h : ∀ i < n, (s.busByte (a + i)).toNat * 256 ^ i = f i) :
    s.busBytes a n = BitVec.ofNat 32 (((List.range n).map f).sum) := by
  unfold State.busBytes
  congr 2
  exact List.map_congr_left fun i hi => h i (List.mem_range.1 hi)

theorem State.busBytes_eq_zero {s : State} {a n : Nat} (h : ∀ i < n, s.busByte (a + i) = 0#8) : s.busBytes a n = 0#32 := by
  rw [s.busBytes_congr (f := fun _ => 0) fun i hi => by simp [h i hi]]
  simp

theorem State.busByte_unmapped {s : State} {a : Nat} (h : (0x3000 ≤ a ∧ a < 0x10000) ∨ 0x38000 ≤ a) : s.busByte a = 0#8 := by
  simp [State.busByte, regionOf_unmapped h]

theorem State.busByte_window {s : State} {r : Ram} {a : Nat} (h : windowBase r ≤ a) (h' : a < windowBase r + windowSize r) :
    s.busByte a = if a - windowBase r < backedBytes s.params r then s.ramByte r (a - windowBase r) else 0#8 := by
  simp [State.busByte, regionOf_of_window h h', State.windowByte, ramBase_eq_windowBase, ramBytes_eq_backedBytes]

theorem State.busByte_table {s : State} {a : Nat} (h : 0x1000 ≤ a) (h' : a < 0x3000) :
    s.busByte a = s.tableByte (a - 0x1000) := by
  simp [State.busByte, regionOf_segmentTable a h h']

/-- A read of a RAM window (20_memory.md R53). -/
theorem State.busBytes_window {s : State} {r : Ram} {a : Nat} {size : BusSize} (h : windowBase r ≤ a)
    (h' : a < windowBase r + windowSize r) (ha : a % size.bytes = 0) :
    s.busBytes a size.bytes = s.windowData r (a - windowBase r) size.bytes := by
  refine s.busBytes_congr fun i hi => ?_
  obtain ⟨hbase, hsize⟩ := window_words r
  have := BusSize.aligned_word ha hi
  rw [State.busByte_window (r := r) (by omega) (by omega), show a + i - windowBase r = a - windowBase r + i by omega]
  split <;> simp

/-! ### The table -/

/-- Entry `j`'s words as numbers (10_state.md R39). -/
theorem SegEntry.word0_toNat (e : SegEntry) : e.word0.toNat = e.start.toNat := by
  simp [SegEntry.word0]
  omega

theorem SegEntry.word1_toNat (e : SegEntry) : e.word1.toNat = e.mode.toNat * 65536 + e.length.toNat := by
  have h : e.word1.toNat = (0#14 ++ e.mode : BitVec (14 + 2)).toNat <<< 16 ||| e.length.toNat :=
    BitVec.toNat_append _ _
  rw [h, ← Nat.shiftLeft_add_eq_or_of_lt e.length.isLt, Nat.shiftLeft_eq, BitVec.toNat_append]
  simp

theorem wordByte_toNat (w : Word) (i : Nat) : (wordByte w i).toNat = w.toNat / 256 ^ i % 256 := by
  rw [wordByte, BitVec.extractLsb'_toNat, Nat.shiftRight_eq_div_pow, pow_mul]
  norm_num

/-- The bytes `k` to `k + n - 1` of a number, put together again. -/
theorem sum_bytes (x k : Nat) (n : Nat) :
    ((List.range n).map fun i => x / 256 ^ (k + i) % 256 * 256 ^ i).sum = x / 256 ^ k % 256 ^ n := by
  induction n with
  | zero => simp [Nat.mod_one]
  | succ n ih =>
    rw [List.range_succ, List.map_append, List.sum_append, ih, pow_succ, Nat.mod_mul, Nat.div_div_eq_div_mul, ← pow_add]
    simp [Nat.mul_comm]

/-- The byte at offset `o` of the table, from the word of the entry that holds it. -/
theorem State.tableByte_toNat (s : State) (o : Nat) : (s.tableByte o).toNat =
    (if o % 8 < 4 then (s.segEntry (o / 8)).start.toNat
      else (s.segEntry (o / 8)).mode.toNat * 65536 + (s.segEntry (o / 8)).length.toNat) / 256 ^ (o % 4) % 256 := by
  unfold State.tableByte
  dsimp only
  split
  · rw [wordByte_toNat, SegEntry.word0_toNat, show o % 8 = o % 4 by omega]
  · rw [wordByte_toNat, SegEntry.word1_toNat, show o % 8 - 4 = o % 4 by omega]

/-- A read of the segment table (10_state.md R39, 20_memory.md R53). -/
theorem State.busBytes_table {s : State} {a : Nat} {size : BusSize} (h : 0x1000 ≤ a) (h' : a < 0x3000)
    (ha : a % size.bytes = 0) : s.busBytes a size.bytes = s.tableData (a - 0x1000) size.bytes := by
  unfold State.tableData
  dsimp only
  rw [← sum_bytes]
  refine s.busBytes_congr fun i hi => ?_
  have := BusSize.aligned_word ha hi
  have hhalf : (a + i - 0x1000) % 8 < 4 ↔ (a - 0x1000) % 8 < 4 := by omega
  rw [State.busByte_table (by omega) (by omega), State.tableByte_toNat, show (a + i - 0x1000) / 8 = (a - 0x1000) / 8 by omega,
    show (a + i - 0x1000) % 4 = (a - 0x1000) % 4 + i by omega]
  simp only [hhalf]

/-! ### Writes that store nothing -/

/-- Writing no byte leaves a memory in canonical form as it is. -/
theorem Memory.writeRange_nil {m : Memory} {size : Nat} (h : m.wf size) (a : Nat) : m.writeRange a [] = m := by
  obtain ⟨hp, -⟩ := h
  simp only [Memory.writeRange, Memory.run, List.append_nil, List.length_nil, Nat.add_zero]
  induction m with
  | nil => rfl
  | cons c m ih =>
    obtain ⟨hc, hm⟩ := List.pairwise_cons.1 hp
    by_cases hca : c.1 < a
    · rw [List.filter_cons_of_pos (by simpa using hca), List.filter_cons_of_neg (by simpa using hca), List.cons_append, ih hm]
    · have hall : ∀ d ∈ m, a ≤ d.1 := fun d hd => by have := hc d hd; omega
      rw [List.filter_eq_nil_iff.2, List.filter_eq_self.2, List.nil_append]
      · exact List.forall_mem_cons.2 ⟨by simpa using hca, fun d hd => by simpa using hall d hd⟩
      · exact List.forall_mem_cons.2 ⟨by simpa using hca, fun d hd => by simpa using hall d hd⟩

theorem State.setRam_ram_self (s : State) (r : Ram) : s.setRam r (s.ram r) = s := by cases r <;> rfl

/-- A write past the bytes a RAM backs stores nothing (20_memory.md R53). -/
theorem State.writeWindow_unbacked {s : State} (h : s.Inv) {r : Ram} {o : Nat} (vs : List Byte) (ho : ramBytes s.params r ≤ o) :
    s.writeWindow r o vs = s := by
  unfold State.writeWindow
  split
  · rw [Nat.sub_eq_zero_of_le ho, List.take_zero, State.writeRam, Memory.writeRange_nil (h.rams_wf r), State.setRam_ram_self]
  · rfl

/-- The ranges that ignore writes: read-only ones, unmapped ones, and DATA_RAM past its size (20_memory.md R51, R53, R54). -/
theorem State.writeData_ignored {s : State} (h : s.Inv) {a : Nat} (size : BusSize) (v : Word)
    (ha : ((0x1000 ≤ a ∧ a < 0x3000) ∨ (0x28000 ≤ a ∧ a < 0x38000)) ∨ ((0x3000 ≤ a ∧ a < 0x10000) ∨ 0x38000 ≤ a) ∨
      (0x10000 + s.params.dataRamBytes ≤ a ∧ a < 0x20000)) : s.writeData a size v = s := by
  unfold State.writeData
  rcases ha with (ha | ha) | ha | ha
  · rw [regionOf_segmentTable a ha.1 ha.2]
  · by_cases hc : a < 0x30000
    · rw [regionOf_of_window (r := .cand) (by simp [windowBase]; omega) (by simp [windowBase, windowSize]; omega)]
      rfl
    · rw [regionOf_of_window (r := .sym) (by simp [windowBase]; omega) (by simp [windowBase, windowSize]; omega)]
      rfl
  · rw [regionOf_unmapped ha]
  · rw [regionOf_of_window (r := .data) (by simp [windowBase]; omega) (by simp [windowBase, windowSize]; omega)]
    exact State.writeWindow_unbacked h _ (by simp [ramBytes, ramBase]; omega)

end Sys2Proof.Machine

open Sys2Proof Sys2Proof.Machine

/-- Settles O58: an aligned transaction stays in one word of one range, and each range answers or ignores it byte by byte. -/
theorem readOnlyAndUnmappedRanges : Obligations.ReadOnlyAndUnmappedRanges := by
  intro s addr size v hr ha a readOnly unmapped unbacked
  refine ⟨fun hs hrange => ?_, fun hrange => ?_, fun hlo hhi => ?_, fun r hlo hhi => ?_⟩
  · have hout : 0x1000 ≤ addr.toNat := by omega
    rw [State.busWrite_legal s addr size v hr (by rw [legalAccess_outside_registers _ _ hout, ha]; rfl),
      State.writeData_ignored hs size v hrange]
  · have hout : 0x1000 ≤ addr.toNat := by omega
    rw [State.busRead_outside hr hout ha, State.busBytes_eq_zero fun i hi => ?_]
    have := BusSize.aligned_word ha hi
    rcases hrange with hrange | hrange
    · exact State.busByte_unmapped (by omega)
    · obtain ⟨hlo, hhi⟩ := hrange
      rw [State.busByte_window (r := .data) (by simp [windowBase]; omega) (by simp [windowBase, windowSize]; omega),
        if_neg (by simp [windowBase, backedBytes]; omega)]
  · rw [State.busRead_outside hr hlo ha, State.busBytes_table hlo hhi ha]
  · have := windowBase_ge r
    rw [State.busRead_outside hr (by omega) ha, State.busBytes_window hlo hhi ha]
end

section
/-! SUPPORT. The register window and the order of the outside's actions: what an aligned word access of a register does,
and whose turn a step is. -/

namespace Sys2Proof.Machine

/-! ### STATUS -/

/-- The bits of the word a STATUS read returns (10_state.md R24). -/
theorem Status.getLsbD_word (f : Status) (busy : Bool) (i : Nat) : (f.word busy).getLsbD i =
    if i = 0 then busy else if i = 1 then f.done else if i = 2 then f.err else if i < 8 then false
    else if i < 16 then f.errCode.getLsbD (i - 8) else if i = 16 then f.busErr else if i = 17 then f.anyErr else false := by
  show BitVec.getLsbD (w := 14 + 1 + 1 + 8 + 5 + 1 + 1 + 1) (0#14 ++ BitVec.ofBool f.anyErr ++ BitVec.ofBool f.busErr ++
    f.errCode ++ 0#5 ++ BitVec.ofBool f.err ++ BitVec.ofBool f.done ++ BitVec.ofBool busy) i = _
  simp only [BitVec.getLsbD_append, BitVec.getLsbD_ofBool, BitVec.getLsbD_zero]
  rcases Nat.lt_or_ge i 18 with h | h
  · interval_cases i <;> simp
  · repeat rw [if_neg (by omega)]

/-! ### Register accesses -/

section
variable {s : State} {a : BitVec 18}

/-- An aligned word read of the register window answers the register (20_memory.md R52). -/
theorem State.busRead_register {w : Word} (hr : s.rstLow = false) (hw : s.readRegister a.toNat = w)
    (ha : a.toNat < 0x1000 := by decide) (h4 : a.toNat % 4 = 0 := by decide) :
    s.busRead a .word = { s with response := some (.readReply w false) } := by
  have hreg := regionOf_registers a.toNat ha
  rw [State.busRead_legal s a .word hr (by simp [legalAccess, hreg, h4])]
  simp only [State.readData, hreg, hw]

theorem State.response_busRead_register {w : Word} (hr : s.rstLow = false) (hw : s.readRegister a.toNat = w)
    (ha : a.toNat < 0x1000 := by decide) (h4 : a.toNat % 4 = 0 := by decide) :
    (s.busRead a .word).response = some (.readReply w false) := by
  rw [State.busRead_register hr hw ha h4]

/-- An aligned word write of the register window writes the register (20_memory.md R52). -/
theorem State.busWrite_register (v : Word) (hr : s.rstLow = false) (ha : a.toNat < 0x1000 := by decide)
    (h4 : a.toNat % 4 = 0 := by decide) :
    s.busWrite a .word v = { s.writeRegister a.toNat v with response := some (.writeReply false) } := by
  have hreg := regionOf_registers a.toNat ha
  rw [State.busWrite_legal s a .word v hr (by simp [legalAccess, hreg, h4])]
  simp only [State.writeData, hreg]

end

/-- Reserved offsets read 0 (20_memory.md R52). -/
theorem State.readRegister_reserved (s : State) {off : Nat} (h : 0x60 ≤ off) : s.readRegister off = 0#32 := by
  unfold State.readRegister
  split
  case h_24 => rfl
  all_goals omega

/-- ID, the registers from RES0 on, and the reserved offsets ignore writes (20_memory.md R52). -/
theorem State.writeRegister_ignored (s : State) {off : Nat} (v : Word) (h : off = 0 ∨ 0x24 ≤ off) : s.writeRegister off v = s := by
  unfold State.writeRegister
  split
  case h_9 => rfl
  all_goals omega

/-- PARAM3 as a number (10_state.md R31). -/
theorem paramWord3_eq (p : Params) : paramWord3 p = BitVec.ofNat 32
    ((if p.n4Rounding = .truncate then 1 else 0) + (if p.anResumeLi = .la then 2 else 0)) := by
  unfold paramWord3
  cases p.n4Rounding <;> cases p.anResumeLi <;> rfl

/-- A stored low field reads back as the written word with its other bits cleared (10_state.md R28, R29). -/
theorem setWidth_extractLsb'_low (v : Word) {n : Nat} (h : n ≤ 32) :
    (v.extractLsb' 0 n).setWidth 32 = v &&& BitVec.ofNat 32 (2 ^ n - 1) := by
  have hle : 2 ^ n ≤ 2 ^ 32 := Nat.pow_le_pow_right (by decide) h
  have hlt : v.toNat % 2 ^ n < 2 ^ n := Nat.mod_lt _ (Nat.two_pow_pos n)
  refine BitVec.eq_of_toNat_eq ?_
  rw [BitVec.toNat_and, BitVec.toNat_ofNat, Nat.mod_eq_of_lt (a := 2 ^ n - 1) (by omega), Nat.and_two_pow_sub_one_eq_mod,
    BitVec.toNat_setWidth, BitVec.extractLsb'_toNat, Nat.shiftRight_zero, Nat.mod_eq_of_lt (by omega)]

/-! ### Whose turn a step is -/

/-- A step taken while the outside comes first is its next action. -/
theorem step_of_hostFirst {s : State} (h : s.pending = none ∨ s.hostFirst = true) : step s = .next s.hostStep := by
  unfold step
  split
  · next hp =>
    rw [if_pos (h.resolve_left (by simp [hp]))]
  · rfl

theorem State.hostFirst_cons {s : State} {ev : HostEvent} {rest : List HostEvent} (h : s.hostQueue = ev :: rest) :
    s.hostFirst = (ev.early && ev.action.mayOvertake) := by
  simp [State.hostFirst, h]

/-- Only a 32-bit STATUS read and a reset may come before a completion (10_state.md R25). -/
theorem HostAction.mayOvertake_eq_false {act : HostAction} (hread : act ≠ .read 0x00008#18 .word) (hreset : act ≠ .assertReset) :
    act.mayOvertake = false := by
  cases act with
  | read addr size =>
    have : ¬ (addr = 0x00008#18 ∧ size = .word) := fun h => hread (by rw [h.1, h.2])
    simpa [HostAction.mayOvertake] using this
  | write addr size v => rfl
  | assertReset => exact absurd rfl hreset
  | releaseReset => rfl

/-- Every word completes the pending command and leaves the port alone (10_state.md R26). -/
theorem runCommand_completes (c : Word) (s : State) : ∃ t, runCommand c s = .next t ∧ t.pending = none ∧
    t.status.done = true ∧ t.hostQueue = s.hostQueue ∧ t.response = s.response := by
  unfold runCommand
  split
  · next i _ =>
    obtain ⟨t, ht⟩ := exec_answers i s
    refine ⟨t, ht, ?_⟩
    rcases exec_cases ht with ⟨u, hu, rfl⟩ | ⟨-, rfl⟩ | ⟨e, -, rfl⟩
    · exact ⟨rfl, rfl, hu.keepsSettings.hostQueue, hu.keepsSettings.response⟩
    · exact ⟨rfl, rfl, rfl, rfl⟩
    · exact ⟨rfl, rfl, rfl, rfl⟩
  · exact ⟨_, rfl, rfl, rfl, rfl, rfl⟩

theorem State.resetWith_ramByte (p : Params) (draw : Nat) (queue : List HostEvent) (r : Ram) (a : Nat) :
    (State.resetWith p draw queue).ramByte r a = Config.drawnByte draw r a := by cases r <;> rfl

end Sys2Proof.Machine

open Sys2Proof Sys2Proof.Machine

/-- Settles O8: the write is the outside's turn and reaches `issue`; a held action leaves the turn to the sequencer. -/
theorem cmdWriteIssuesAndBusyHolds : Obligations.CmdWriteIssuesAndBusyHolds := by
  refine ⟨fun s v early rest hp hr hq => ?_, fun s c ev rest hp hq hread hreset => ?_⟩
  · rw [step_of_idle hp, State.hostStep_cons hq]
    exact congrArg _ (State.busWrite_register (s := { s with hostQueue := rest }) v hr)
  · have hf : s.hostFirst = false := by
      rw [State.hostFirst_cons hq, HostAction.mayOvertake_eq_false hread hreset, Bool.and_false]
    obtain ⟨t, ht, hpend, hdone, hqueue, hresp⟩ := runCommand_completes c s
    exact ⟨t, by rw [step_of_pending hp hf, ht], hpend, hdone, hqueue.trans hq, hresp⟩

/-- Settles O10: the layout of the concatenation, bit by bit. -/
theorem statusWordLayout : Obligations.StatusWordLayout := by
  intro s
  simp only [State.statusWord, State.busy, Status.getLsbD_word]
  refine ⟨rfl, rfl, rfl, rfl, fun i hlo hhi => ?_, ?_, rfl, rfl, fun i hi => ?_⟩
  · rw [if_neg (by omega), if_neg (by omega), if_neg (by omega), if_pos (by omega)]
  · refine BitVec.eq_of_getLsbD_eq fun i hi => ?_
    rw [BitVec.getLsbD_extractLsb', Status.getLsbD_word]
    rw [if_neg (by omega), if_neg (by omega), if_neg (by omega), if_neg (by omega), if_pos (by omega)]
    simp [hi]
  · rw [if_neg (by omega), if_neg (by omega), if_neg (by omega), if_neg (by omega), if_neg (by omega), if_neg (by omega),
      if_neg (by omega)]

/-- Settles O9: the read is the outside's turn, and bit 0 of STATUS is the pending latch. -/
theorem statusReadSeesBusy : Obligations.StatusReadSeesBusy := by
  intro s c rest hp hr hq
  refine ⟨s.statusWord, ?_, by simp [State.statusWord, State.busy, Status.getLsbD_word, hp]⟩
  rw [step_of_hostFirst (.inr (by rw [State.hostFirst_cons hq]; rfl)), State.hostStep_cons hq]
  exact congrArg _ (State.busRead_register (s := { s with hostQueue := rest }) hr rfl)

/-- Settles O55: the write reaches `Status.written`. -/
theorem statusWriteClearsStickyBits : Obligations.StatusWriteClearsStickyBits := by
  intro s v hr
  rw [State.busWrite_register v hr]
  have hw : s.status.written v = { s.status with
      busErr := if v.getLsbD 16 then false else s.status.busErr
      anyErr := if v.getLsbD 17 then false else s.status.anyErr } := by
    unfold Status.written
    cases v.getLsbD 16 <;> cases v.getLsbD 17 <;> simp
  rw [← hw]
  rfl

/-- Settles O56: reads and writes of the window are `readRegister` and `writeRegister`, read off offset by offset. -/
theorem hostRegisterAccess : Obligations.HostRegisterAccess := by
  intro s hr reads ignores
  have rd : ∀ {a : BitVec 18} {w : Word} (_ : s.readRegister a.toNat = w) (_ : a.toNat < 0x1000 := by decide)
    (_ : a.toNat % 4 = 0 := by decide), reads a w := fun hw ha h4 => State.busRead_register hr hw ha h4
  have ig : ∀ {a : BitVec 18}, a.toNat < 0x1000 → a.toNat % 4 = 0 → a.toNat = 0 ∨ 0x24 ≤ a.toNat → ignores a :=
    fun ha h4 h v => by rw [State.busWrite_register v hr ha h4, State.writeRegister_ignored s v h]
  refine ⟨⟨rd rfl, rd rfl, rd rfl, rd (BitVec.ofNat_toNat 32 s.version).symm, rd (BitVec.ofNat_toNat 32 s.level).symm,
    rd rfl, rd rfl, rd rfl, rd rfl, rd rfl, rd rfl, rd rfl, rd rfl, rd rfl, rd rfl, rd rfl, rd rfl, rd rfl, rd rfl, rd rfl,
    rd rfl, rd rfl, rd rfl, rd (paramWord3_eq s.params)⟩, ?_, ?_, ?_⟩
  · have hall : ∀ a ∈ [0x00000#18, 0x00024#18, 0x00028#18, 0x0002C#18, 0x00030#18, 0x00034#18, 0x00038#18, 0x0003C#18, 0x00040#18,
        0x00044#18, 0x00048#18, 0x0004C#18, 0x00050#18, 0x00054#18, 0x00058#18, 0x0005C#18],
        a.toNat < 0x1000 ∧ a.toNat % 4 = 0 ∧ (a.toNat = 0 ∨ 0x24 ≤ a.toNat) := by simp
    intro a ha
    obtain ⟨hlt, h4, hro⟩ := hall a ha
    exact ig hlt h4 hro
  · intro a hlo hhi h4
    exact ⟨rd (s.readRegister_reserved hlo) (by omega) h4, ig (by omega) h4 (.inr (by omega))⟩
  · intro v
    refine ⟨State.busWrite_register v hr, State.busWrite_register v hr, State.busWrite_register v hr, State.busWrite_register v hr,
      State.busWrite_register v hr, State.busWrite_register v hr, ?_, ?_, ?_⟩
    · rw [State.busWrite_register v hr]
      exact State.response_busRead_register hr (setWidth_extractLsb'_low v (n := 6) (by decide))
    · rw [State.busWrite_register v hr]
      exact State.response_busRead_register hr (setWidth_extractLsb'_low v (n := 2) (by decide))
    · intro a ha
      simp only [List.mem_cons, List.not_mem_nil, or_false] at ha
      rcases ha with rfl | rfl | rfl | rfl
      all_goals
        rw [State.busWrite_register v hr]
        exact State.response_busRead_register hr rfl

/-- Settles O59: the action is the outside's turn, and what it leaves is the reset state with the pin low. -/
theorem hardwareResetAbandonsCommand : Obligations.HardwareResetAbandonsCommand := by
  refine ⟨fun s early rest hturn hr hq => ?_, fun s addr size v hr => ⟨?_, ?_, rfl⟩⟩
  · have hfirst : s.pending = none ∨ s.hostFirst = true :=
      hturn.imp_right fun he => by rw [State.hostFirst_cons hq, he]; rfl
    refine ⟨{ State.resetWith s.params (s.draws + 1) rest with rstLow := true }, ?_, rfl, rfl, rfl, rfl, rfl, rfl, rfl, rfl, rfl,
      rfl, rfl, rfl, rfl, rfl, rfl, rfl, rfl, fun r a => State.resetWith_ramByte s.params (s.draws + 1) rest r a, fun _ => rfl⟩
    rw [step_of_hostFirst hfirst, State.hostStep_cons hq]
    simp [State.hostAct, State.hardReset, hr]
  · simp [State.busRead, hr]
  · simp [State.busWrite, hr]
end

section
/-! SUPPORT. Bus errors, and writes to the windows of the RAMs the host may write: which bytes they store, what they leave as it was,
and what a read then returns (20_memory.md R52 to R56). -/

namespace Sys2Proof.Machine

theorem State.hostStep_nil {s : State} (h : s.hostQueue = []) : s.hostStep = s := by
  simp [State.hostStep, h]

/-- In the register window a transaction is legal exactly when it is an aligned word (20_memory.md R52). -/
theorem legalAccess_registers {a : Nat} (size : BusSize) (h : a < 0x1000) :
    legalAccess a size = (size == .word && a % 4 == 0) := by
  simp only [legalAccess, regionOf_registers a h]

/-! ### Window addresses -/

/-- Every window ends inside the 18-bit address space. -/
theorem toNat_windowAddr {r : Ram} {o : Nat} (ho : o < windowSize r) :
    (BitVec.ofNat 18 (windowBase r + o)).toNat = windowBase r + o := by
  have hend : windowBase r + windowSize r ≤ 2 ^ 18 := by cases r <;> decide
  rw [BitVec.toNat_ofNat, Nat.mod_eq_of_lt (by omega)]

/-- A window's base is aligned for every size, so an aligned offset is an aligned address. -/
theorem windowAddr_aligned (r : Ram) {o : Nat} {size : BusSize} (h : o % size.bytes = 0) :
    (windowBase r + o) % size.bytes = 0 := by
  have hbase : windowBase r % size.bytes = 0 := by cases r <;> cases size <;> rfl
  rw [Nat.add_mod, hbase, h, Nat.zero_mod]

/-! ### What a window write stores -/

@[simp] theorem writeBytes_length (v : Word) (n : Nat) : (writeBytes v n).length = n := by simp [writeBytes]

/-- A window write changes its RAM alone (20_memory.md R53). -/
theorem State.writeWindow_eq_setRam (s : State) (r : Ram) (o : Nat) (vs : List Byte) :
    s.writeWindow r o vs = s.setRam r ((s.writeWindow r o vs).ram r) := by
  unfold State.writeWindow
  split
  · rw [State.writeRam, State.setRam_ram_same]
  · rw [State.setRam_ram_self]

@[simp] theorem State.writeWindow_params (s : State) (r : Ram) (o : Nat) (vs : List Byte) :
    (s.writeWindow r o vs).params = s.params := by
  rw [State.writeWindow_eq_setRam, State.setRam_params]

@[simp] theorem State.writeWindow_rstLow (s : State) (r : Ram) (o : Nat) (vs : List Byte) :
    (s.writeWindow r o vs).rstLow = s.rstLow := by
  rw [State.writeWindow_eq_setRam, State.setRam_rstLow]

theorem State.writeWindow_ramByte_other (s : State) {r q : Ram} (o : Nat) (vs : List Byte) (x : Nat) (h : q ≠ r) :
    (s.writeWindow r o vs).ramByte q x = s.ramByte q x := by
  unfold State.writeWindow
  split
  · exact s.ramByte_writeRam_other r q o _ x h
  · rfl

/-- The bytes of a word are stored at the written offsets that the RAM backs, and nowhere else (20_memory.md R53). -/
theorem State.writeWindow_ramByte_same (s : State) {r : Ram} (hw : hostWritable r = true) (o : Nat) (v : Word) (n x : Nat) :
    (s.writeWindow r o (writeBytes v n)).ramByte r x =
      if (o ≤ x ∧ x < o + n) ∧ x < backedBytes s.params r then wordByte v (x - o) else s.ramByte r x := by
  rw [State.writeWindow, if_pos hw, ramBytes_eq_backedBytes, State.ramByte_writeRam_same]
  simp only [List.length_take, writeBytes_length]
  split
  · rw [if_pos (by omega)]
    simp [writeBytes]
  · rw [if_neg (by omega)]

/-! ### Transactions in a window -/

section
variable {s : State} {r : Ram} {o : Nat} {size : BusSize}

/-- An aligned write in a RAM's window is a window write (20_memory.md R53). -/
theorem State.busWrite_window (v : Word) (hr : s.rstLow = false) (ha : o % size.bytes = 0) (ho : o < windowSize r) :
    s.busWrite (BitVec.ofNat 18 (windowBase r + o)) size v =
      { s.writeWindow r o (writeBytes v size.bytes) with response := some (.writeReply false) } := by
  have hbase := windowBase_ge r
  have hlegal : legalAccess (windowBase r + o) size = true := by
    rw [legalAccess_outside_registers _ _ (by omega), windowAddr_aligned r ha]
    rfl
  rw [State.busWrite_legal s _ size v hr (by rwa [toNat_windowAddr ho]), toNat_windowAddr ho]
  simp only [State.writeData, regionOf_window r o ho, ramBase_eq_windowBase, Nat.add_sub_cancel_left]

/-- An aligned read in a RAM's window answers the window's bytes (20_memory.md R53). -/
theorem State.busRead_window (hr : s.rstLow = false) (ha : o % size.bytes = 0) (ho : o < windowSize r) :
    s.busRead (BitVec.ofNat 18 (windowBase r + o)) size =
      { s with response := some (.readReply (s.windowData r o size.bytes) false) } := by
  have hbase := windowBase_ge r
  have haddr := windowAddr_aligned r ha
  rw [State.busRead_outside hr (by rw [toNat_windowAddr ho]; omega) (by rwa [toNat_windowAddr ho]), toNat_windowAddr ho,
    State.busBytes_window (r := r) (by omega) (by omega) haddr, Nat.add_sub_cancel_left]

end

/-- What a window of `b` backed bytes reads as when these are the bytes of a word (20_memory.md R53). -/
theorem State.windowData_of_wordBytes {s : State} {r : Ram} {o n b : Nat} {v : Word} (hb : backedBytes s.params r = b)
    (h : ∀ i, i < n → o + i < b → s.ramByte r (o + i) = wordByte v i) :
    s.windowData r o n = BitVec.ofNat 32 (((List.range n).map fun i =>
      if o + i < b then (v.toNat / 256 ^ i) % 256 * 256 ^ i else 0).sum) := by
  unfold State.windowData
  rw [hb]
  congr 2
  refine List.map_congr_left fun i hi => ?_
  split
  · next hlt => rw [h i (List.mem_range.1 hi) hlt, wordByte_toNat]
  · rfl

/-- With every byte backed, the bytes make up the written part of the word. -/
theorem sum_backed_bytes (x : Nat) {o n b : Nat} (h : o + n ≤ b) :
    ((List.range n).map fun i => if o + i < b then x / 256 ^ i % 256 * 256 ^ i else 0).sum = x % 256 ^ n := by
  have hsum := sum_bytes x 0 n
  simp only [Nat.zero_add, pow_zero, Nat.div_one] at hsum
  rw [← hsum]
  congr 1
  refine List.map_congr_left fun i hi => if_pos ?_
  have := List.mem_range.1 hi
  omega

end Sys2Proof.Machine

open Sys2Proof Sys2Proof.Machine

/-- Settles O57: the write is a window write, byte by byte, and the read sums up the bytes it left. -/
theorem ramWriteThenReadReturnsIt : Obligations.RamWriteThenReadReturnsIt := by
  intro s r o size v hr hrw ha ho addr
  have hw : hostWritable r = true := by rcases hrw with rfl | rfl <;> rfl
  let t : State := { s.writeWindow r o (writeBytes v size.bytes) with response := some (.writeReply false) }
  have hbyte : ∀ x, t.ramByte r x =
      if (o ≤ x ∧ x < o + size.bytes) ∧ x < backedBytes s.params r then wordByte v (x - o) else s.ramByte r x :=
    s.writeWindow_ramByte_same hw o v size.bytes
  have hstored : ∀ i, i < size.bytes → o + i < backedBytes s.params r → t.ramByte r (o + i) = wordByte v i := by
    intro i hi hb
    rw [hbyte, if_pos ⟨by omega, hb⟩, Nat.add_sub_cancel_left]
  have hread : t.busRead addr size = { t with response := some (.readReply (t.windowData r o size.bytes) false) } :=
    State.busRead_window ((s.writeWindow_rstLow r o _).trans hr) ha ho
  have hdata := State.windowData_of_wordBytes (congrArg (backedBytes · r) (s.writeWindow_params r o _) :
    backedBytes t.params r = backedBytes s.params r) hstored
  refine ⟨t, State.busWrite_window v hr ha ho, hstored, fun x hx => ?_, fun q hq x => ?_, ?_, ?_, fun hfit => ?_⟩
  · rw [hbyte, if_neg (by omega)]
  · exact s.writeWindow_ramByte_other o _ x hq
  · exact congrArg (fun w : State => { w with response := some (.writeReply false) }) (s.writeWindow_eq_setRam r o _)
  · rw [hread, hdata]
  · rw [hread, hdata, sum_backed_bytes v.toNat hfit]

/-- Settles O7: an idle step is the outside's turn, which an empty queue leaves unused. -/
theorem idleStepServesTheHost : Obligations.IdleStepServesTheHost := by
  refine fun s hp => ⟨fun hq => ?_, fun ev rest hq => ?_⟩
  · rw [step_of_idle hp, State.hostStep_nil hq]
  · rw [step_of_idle hp, State.hostStep_cons hq]

/-- Settles O54: either kind of wrong transaction is illegal, and an illegal one ends in `busError`. -/
theorem busErrorSetsOnlyBuserr : Obligations.BusErrorSetsOnlyBuserr := by
  intro s addr size v hr hbad
  have hillegal : legalAccess addr.toNat size = false := by
    rcases hbad with ⟨hreg, hsize | halign⟩ | ⟨hout, halign⟩
    · simp [legalAccess_registers size hreg, hsize]
    · simp [legalAccess_registers size hreg, halign]
    · simp [legalAccess_outside_registers _ size hout, halign]
  exact ⟨State.busRead_illegal s addr size hr hillegal, State.busWrite_illegal s addr size v hr hillegal⟩
end

section
/-! SUPPORT. The opcode map as a decoder: a word's row is the one row of its opcode, a row's command encodes to the row's value with
the word's free bits, and the two ways a word is illegal are read off the row of its opcode (30_encoding.md R71 to R77). -/

namespace Sys2Proof.Machine

/-! ### Rows and opcodes -/

theorem accepts_iff {r : OpcodeRow} {c : Word} : r.accepts c = true ↔ c &&& r.mask = r.value := by
  simp [OpcodeRow.accepts]

/-- Bits 7:0 agree when the words do modulo 256. -/
theorem opcode_eq_iff (c d : Word) : c.extractLsb' 0 8 = d.extractLsb' 0 8 ↔ c.toNat % 256 = d.toNat % 256 := by
  simp [← BitVec.toNat_inj, BitVec.extractLsb'_toNat]

/-- No two rows of the map have the same opcode (30_encoding.md R75). -/
theorem opcodeTable_opcodes_nodup : (opcodeTable.map fun r => r.value.extractLsb' 0 8).Nodup := by decide

/-- A row demands a 0 in every bit above its opcode that it looks at. -/
theorem opcodeTable_value_above_opcode : ∀ r ∈ opcodeTable, ∀ i < 32, 8 ≤ i → r.value.getLsbD i = false := by decide

theorem row_eq_of_opcode {r q : OpcodeRow} (hr : r ∈ opcodeTable) (hq : q ∈ opcodeTable)
    (h : r.value.extractLsb' 0 8 = q.value.extractLsb' 0 8) : r = q :=
  List.inj_on_of_nodup_map opcodeTable_opcodes_nodup hr hq h

/-- At most one row accepts a word (30_encoding.md R74): an accepting row has the word's opcode. -/
theorem row_eq_of_accepts {r q : OpcodeRow} (hr : r ∈ opcodeTable) (hq : q ∈ opcodeTable) {c : Word}
    (har : r.accepts c = true) (haq : q.accepts c = true) : r = q :=
  row_eq_of_opcode hr hq ((opcode_of_accepts hr har).symm.trans (opcode_of_accepts hq haq))

theorem opcodeAssigned_iff {c : Word} :
    opcodeAssigned c = true ↔ ∃ r ∈ opcodeTable, c.extractLsb' 0 8 = r.value.extractLsb' 0 8 := by
  simp only [opcodeAssigned, List.any_eq_true, beq_iff_eq]

/-! ### What decode answers -/

/-- `decode` answers a command exactly when a row accepts the word and builds it (30_encoding.md R74). -/
theorem decode_eq_ok_iff {c : Word} {i : Instr} :
    decode c = .ok i ↔ ∃ r ∈ opcodeTable, r.accepts c = true ∧ i = r.build c := by
  unfold decode
  split
  · next r hfind =>
    have hr := List.mem_of_find?_eq_some hfind
    have ha := List.find?_some hfind
    constructor
    · intro h
      exact ⟨r, hr, ha, (Except.ok.inj h).symm⟩
    · rintro ⟨q, hq, haq, rfl⟩
      rw [row_eq_of_accepts hr hq ha haq]
  · next hfind =>
    refine iff_of_false nofun ?_
    rintro ⟨r, hr, ha, -⟩
    exact List.find?_eq_none.1 hfind r hr ha

/-- `decode` answers an error exactly when no row accepts the word; which one depends on the opcode (30_encoding.md R77). -/
theorem decode_eq_error_iff {c : Word} {e : IllegalEncoding} : decode c = .error e ↔
    (∀ r ∈ opcodeTable, ¬ r.accepts c = true) ∧ e = if opcodeAssigned c then .unusedBitSet else .unassignedOpcode := by
  unfold decode
  split
  · next r hfind =>
    exact iff_of_false nofun fun h => h.1 r (List.mem_of_find?_eq_some hfind) (by simpa using List.find?_some hfind)
  · next hfind =>
    rw [Except.error.injEq, eq_comm, and_iff_right (List.find?_eq_none.1 hfind)]

/-- The word of a well-formed command decodes to it (30_encoding.md R71, R75). -/
theorem decode_encode {i : Instr} (h : i.wellFormed = true) : decode (encode i) = .ok i := by
  have hrow : Laws.Encoding.Statement i := by
    cases i with
    | nop => exact Laws.Encoding.nop
    | softReset => exact Laws.Encoding.softReset
    | bsbClear b => exact Laws.Encoding.bsbClear b
    | bsbAppendBit b f => exact Laws.Encoding.bsbAppendBit b f
    | bsbAppendNum b n => exact Laws.Encoding.bsbAppendNum b n
    | bsbAppendBytes b => exact Laws.Encoding.bsbAppendBytes b
    | bsbAppendSeq b src => exact Laws.Encoding.bsbAppendSeq b src
    | bsbGetBit b => exact Laws.Encoding.bsbGetBit b
    | bsbPack b => exact Laws.Encoding.bsbPack b
    | segSplit f => exact Laws.Encoding.segSplit f
    | rsBlock => exact Laws.Encoding.rsBlock
    | rsInterleave => exact Laws.Encoding.rsInterleave
    | fill => exact Laws.Encoding.fill
    | maskEval k => exact Laws.Encoding.maskEval k
    | maskSelect => exact Laws.Encoding.maskSelect
    | maskForce k => exact Laws.Encoding.maskForce k
  obtain ⟨r, hr, ha, hb⟩ := hrow h
  exact decode_eq_ok_iff.2 ⟨r, hr, ha, hb.symm⟩

/-! ### Fields put back in place -/

/-- A one-bit field, put back in place, is the word under the field's mask. -/
theorem placeBit_getLsbD (c : Word) (i : Nat) : placeBit i (c.getLsbD i) = c &&& BitVec.twoPow 32 i :=
  (BitVec.and_twoPow c i).symm

theorem buf_of_bit_beq_bsb1 (v : Bool) : ((if v then Buf.bsb1 else .bsb0) == .bsb1) = v := by cases v <;> rfl

theorem placeBuf_fieldBuf (c : Word) : placeBuf (fieldBuf c) = c &&& 0x100#32 := by
  rw [placeBuf, fieldBuf, buf_of_bit_beq_bsb1]
  exact placeBit_getLsbD c 8

theorem placeSrc_fieldSrc (c : Word) : placeSrc (fieldSrc c) = c &&& 0x200#32 := by
  rw [placeSrc, fieldSrc, buf_of_bit_beq_bsb1]
  exact placeBit_getLsbD c 9

theorem placeBit_fieldFlag (c : Word) : placeBit 13 (fieldFlag c) = c &&& 0x2000#32 := placeBit_getLsbD c 13

/-- A field of `n` bits at bit `i`, put back in place, is the word under the field's mask. -/
theorem ofNat_extractLsb'_shiftLeft (c : Word) (i n : Nat) :
    BitVec.ofNat 32 (c.extractLsb' i n).toNat <<< i = c &&& (BitVec.allOnes n).setWidth 32 <<< i := by
  refine BitVec.eq_of_getLsbD_eq fun j hj => ?_
  rw [BitVec.ofNat_toNat]
  rcases Nat.lt_or_ge j i with hji | hij
  · simp [hji]
  · simp [hj, Nat.add_sub_of_le hij, Bool.and_comm, Bool.and_assoc]

theorem placeK_fieldK (c : Word) : placeK (fieldK c) = c &&& 0x1C00#32 :=
  ofNat_extractLsb'_shiftLeft c 10 3

theorem placeN_fieldN (c : Word) : placeN (fieldN c) = c &&& 0x3F0000#32 :=
  ofNat_extractLsb'_shiftLeft c 16 6

/-- The command a row builds from a word encodes to the row's value with the word's bits outside the row's mask: row by row, the masks
of the fields that the command carries make up the complement of the row's mask. -/
theorem encode_build : ∀ r ∈ opcodeTable, ∀ c : Word, encode (r.build c) = r.value ||| (c &&& ~~~r.mask) := by
  simp [opcodeTable, encode, placeBuf_fieldBuf, placeSrc_fieldSrc, placeBit_fieldFlag, placeK_fieldK, placeN_fieldN,
    BitVec.or_assoc, ← BitVec.and_or_distrib_left]

theorem fieldN_lt (c : Word) : fieldN c < 64 := (c.extractLsb' 16 6).isLt

/-- The command a row builds is well formed. -/
theorem wellFormed_build : ∀ r ∈ opcodeTable, ∀ c : Word, (r.build c).wellFormed = true := by
  simp [opcodeTable, Instr.wellFormed, fieldN_lt]

/-- A word that decodes is the word of its command (30_encoding.md R74). -/
theorem encode_of_decode {c : Word} {i : Instr} (h : decode c = .ok i) : encode i = c := by
  obtain ⟨r, hr, ha, rfl⟩ := decode_eq_ok_iff.1 h
  calc encode (r.build c) = c &&& r.mask ||| c &&& ~~~r.mask := by rw [encode_build r hr, accepts_iff.1 ha]
    _ = c &&& (r.mask ||| ~~~r.mask) := BitVec.and_or_distrib_left.symm
    _ = c := by rw [BitVec.or_not_self]; exact BitVec.and_allOnes

theorem wellFormed_of_decode {c : Word} {i : Instr} (h : decode c = .ok i) : i.wellFormed = true := by
  obtain ⟨r, hr, -, rfl⟩ := decode_eq_ok_iff.1 h
  exact wellFormed_build r hr c

/-! ### Illegal words -/

/-- A word whose opcode no row has (30_encoding.md R77). -/
theorem decode_eq_unassigned_iff (c : Word) : decode c = .error .unassignedOpcode ↔
    ∀ r ∈ opcodeTable, c.extractLsb' 0 8 ≠ r.value.extractLsb' 0 8 := by
  rw [decode_eq_error_iff]
  constructor
  · rintro ⟨-, he⟩ r hr hopc
    rw [if_pos (opcodeAssigned_iff.2 ⟨r, hr, hopc⟩)] at he
    exact nomatch he
  · intro h
    refine ⟨fun r hr ha => h r hr (opcode_of_accepts hr ha), (if_neg fun hassigned => ?_).symm⟩
    obtain ⟨r, hr, hopc⟩ := opcodeAssigned_iff.1 hassigned
    exact h r hr hopc

/-- The row of a word's opcode rejects it only for a bit above the opcode that the row does not use. -/
theorem exists_unused_bit {r : OpcodeRow} (hr : r ∈ opcodeTable) {c : Word} (hopc : c.extractLsb' 0 8 = r.value.extractLsb' 0 8)
    (ha : ¬ r.accepts c = true) : ∃ i, 8 ≤ i ∧ i < 32 ∧ r.mask.getLsbD i = true ∧ c.getLsbD i = true := by
  by_contra hno
  refine ha (accepts_iff.2 (BitVec.eq_of_getLsbD_eq fun i hi => ?_))
  rcases Nat.lt_or_ge i 8 with h8 | h8
  · have hlow : (c &&& r.mask).extractLsb' 0 8 = r.value.extractLsb' 0 8 := by
      rw [BitVec.extractLsb'_and, opcodeTable_mask_opcode r hr, ← hopc]
      exact BitVec.and_allOnes
    simpa [h8] using congrArg (·.getLsbD i) hlow
  · rw [opcodeTable_value_above_opcode r hr i hi h8, BitVec.getLsbD_and]
    refine Bool.eq_false_iff.2 fun hbit => ?_
    obtain ⟨hc, hm⟩ := Bool.and_eq_true_iff.1 hbit
    exact hno ⟨i, h8, hi, hm, hc⟩

/-- A row's opcode, and the bits of a word that the row's fields use (30_encoding.md R75). -/
def opcodeAndUsedBits (r : OpcodeRow) : Nat × List Nat :=
  (r.value.toNat % 256, (List.range 32).filter fun i => !r.mask.getLsbD i)

/-- A row's opcode uses only the bits that the row's mask leaves free, since no other row has the opcode (30_encoding.md R77). -/
theorem usesOnly_of_mem {r : OpcodeRow} (hr : r ∈ opcodeTable) :
    UsesOnly (r.value.extractLsb' 0 8) (opcodeAndUsedBits r).2 := by
  refine usesOnly_of_rows ⟨r, hr, rfl⟩ fun q hq hopc i hi32 hi8 hiu => ?_
  obtain rfl := row_eq_of_opcode hq hr hopc
  exact ⟨by simpa [opcodeAndUsedBits, hi32] using hiu, opcodeTable_value_above_opcode q hq i hi32 hi8⟩

/-- A word whose opcode a row has, with a bit set that the row does not use (30_encoding.md R77). -/
theorem decode_eq_unusedBitSet_iff (c : Word) : decode c = .error .unusedBitSet ↔
    ∃ r ∈ opcodeTable, c.extractLsb' 0 8 = r.value.extractLsb' 0 8 ∧
      ∃ i, 8 ≤ i ∧ i < 32 ∧ i ∉ (opcodeAndUsedBits r).2 ∧ c.getLsbD i = true := by
  constructor
  · intro h
    obtain ⟨hrejects, he⟩ := decode_eq_error_iff.1 h
    have hassigned : opcodeAssigned c = true := by
      by_contra hno
      rw [if_neg hno] at he
      exact nomatch he
    obtain ⟨r, hr, hopc⟩ := opcodeAssigned_iff.1 hassigned
    obtain ⟨i, hi8, hi32, hm, hbit⟩ := exists_unused_bit hr hopc (hrejects r hr)
    exact ⟨r, hr, hopc, i, hi8, hi32, by simp [opcodeAndUsedBits, hm], hbit⟩
  · rintro ⟨r, hr, hopc, hbit⟩
    exact usesOnly_of_mem hr c hopc hbit

/-- A pending word that does not decode completes with IllegalCommand (40_control.md R90). -/
theorem step_of_illegal {s : State} {c : Word} {e : IllegalEncoding} (hp : s.pending = some c) (hf : s.hostFirst = false)
    (hd : decode c = .error e) : step s = .next (failedState s .illegalCommand) := by
  rw [step_of_pending hp hf, runCommand, hd]
  rfl

end Sys2Proof.Machine

open Sys2Proof Sys2Proof.Machine

/-- Settles O1: some row accepts the word and builds the command back, and `decode` answers any row that accepts. -/
theorem decodeOfEncode : Obligations.DecodeOfEncode := fun _ h => decode_encode h

/-- Settles O2: an accepted word is its row's value and the bits outside the row's mask, which are the fields of its command. -/
theorem encodeOfDecode : Obligations.EncodeOfDecode := fun _ _ h => ⟨encode_of_decode h, wellFormed_of_decode h⟩

/-- Settles O3: rows that accept one word share its opcode, and the opcodes of the map are distinct. -/
theorem atMostOneRowAccepts : Obligations.AtMostOneRowAccepts := by
  refine fun c => ⟨?_, fun i => ?_, ?_⟩
  · refine (List.pairwise_map.1 opcodeTable_opcodes_nodup).imp_of_mem fun hr hq hne => ?_
    rintro ⟨har, haq⟩
    exact hne ((opcode_of_accepts hr har).symm.trans (opcode_of_accepts hq haq))
  · simp only [decode_eq_ok_iff, accepts_iff]
  · simp only [decode_eq_error_iff, accepts_iff, exists_and_left, exists_eq, and_true, ne_eq]

/-- Settles O4: the listed opcodes and bits are those of the opcode map, row by row. -/
theorem illegalWordsRaiseIllegalCommand : Obligations.IllegalWordsRaiseIllegalCommand := by
  unfold Obligations.IllegalWordsRaiseIllegalCommand
  intro used
  have hused : used = opcodeTable.map opcodeAndUsedBits := by decide
  refine ⟨fun c => ?_, fun c => ?_, fun s c e hp hf hd => step_of_illegal hp hf hd, fun b n s hn => ?_⟩
  · rw [hused, List.forall_mem_map, decode_eq_unassigned_iff]
    simp only [ne_eq, opcode_eq_iff, opcodeAndUsedBits]
  · rw [hused, decode_eq_unusedBitSet_iff]
    simp only [List.mem_map, exists_exists_and_eq_and, opcode_eq_iff, opcodeAndUsedBits]
  · rw [FailsWith, exec_eq_finish_body, body, if_pos hn]
    rfl

/-- Settles O5: the decoder evaluated on ten fixed words. -/
theorem sampleWordsDecode : Obligations.SampleWordsDecode := by
  unfold Obligations.SampleWordsDecode
  decide
end

section
/-! SUPPORT. The control commands: how a command that succeeds, and a pending word that decodes, end; and what SOFT_RESET's writes keep
(40_control.md R90 to R92). -/

namespace Sys2Proof.Machine

/-- A pending word that decodes is executed (40_control.md R90). -/
theorem step_of_legal {s : State} {c : Word} {i : Instr} (hp : s.pending = some c) (hf : s.hostFirst = false)
    (hd : decode c = .ok i) : step s = exec i s := by
  rw [step_of_pending hp hf, runCommand, hd]

/-- A command whose body succeeds ends with the body's writes and completion (40_control.md R90). -/
theorem exec_of_body_ok {i : Instr} {s u : State} (h : body i s = .ok u) : exec i s = .next u.completeOk := by
  rw [exec_eq_finish_body, h, finish]

@[simp] theorem State.softReset_ram (s : State) (r : Ram) : s.softReset.ram r = s.ram r := by cases r <;> rfl

@[simp] theorem State.softReset_ramByte (s : State) (r : Ram) (x : Nat) : s.softReset.ramByte r x = s.ramByte r x := by
  rw [State.ramByte, State.softReset_ram]
  rfl

@[simp] theorem State.softReset_segEntry (s : State) (j : Nat) : s.softReset.segEntry j = s.segEntry j := rfl

/-- STATUS after a command that succeeded with no sticky bit set reads DONE alone (10_state.md R24, R26). -/
theorem State.completeOk_statusWord {s : State} (hbus : s.status.busErr = false) (hany : s.status.anyErr = false) :
    s.completeOk.statusWord = 0x00000002#32 := by
  rw [State.statusWord, State.busy, State.completeOk_status, State.completeOk_pending, hbus, hany]
  rfl

end Sys2Proof.Machine

open Sys2Proof Sys2Proof.Machine

/-- Settles O6: the sequencer has the turn, and the word decodes. -/
theorem stepExecutesPendingCommand : Obligations.StepExecutesPendingCommand := fun _ _ _ hp hf hd => step_of_legal hp hf hd

/-- Settles O22: the body of NOP writes nothing, so completion is its only effect. -/
theorem nopChangesOnlyStatus : Obligations.NopChangesOnlyStatus :=
  ⟨decode_encode (i := .nop) rfl, usesOnly_of_rows (by decide) (by decide), fun _ => exec_of_body_ok rfl⟩

/-- Settles O23: the registers are the values SOFT_RESET writes, and STATUS is completion over cleared sticky bits; no write touches a
RAM, the table or a field of the model's own. -/
theorem softResetRestoresRegisters : Obligations.SoftResetRestoresRegisters := by
  refine ⟨decode_encode (i := .softReset) rfl, usesOnly_of_rows (by decide) (by decide), fun s =>
    ⟨s.softReset.completeOk, exec_of_body_ok rfl, rfl, rfl, rfl, rfl, rfl, rfl, rfl, rfl, rfl, rfl, rfl, rfl, ?status, ?table, ?rams,
      rfl, rfl, rfl, rfl, rfl⟩⟩
  case status => exact State.completeOk_statusWord rfl rfl
  case table => simp
  case rams => exact fun r x => by simp
end

section
/-! SUPPORT. The bit-sequence buffer commands (41_bitseq.md R100 to R109): how a command that replaces a buffer or fails
ends, when an append fits, the bits of a DATA_RAM range, and the bytes of a packed buffer. -/

namespace Sys2Proof.Machine

/-! ### How a command ends -/

/-- A command whose body raises an error fails with it (60_exceptions.md R254). -/
theorem failsWith_of_body {e : CmdError} {i : Instr} {s : State} (h : body i s = .error e) : FailsWith e i s := by
  rw [FailsWith, exec_eq_finish_body, h]
  rfl

theorem writes_of_body_ok {i : Instr} {s u : State} (h : body i s = .ok u) (hi : i ≠ .softReset) : Writes s u := by
  have hr := body_result hi s
  rw [h] at hr
  cases hr with
  | ok hw => exact hw

theorem Writes.succeeded {s u : State} (h : Writes s u) : Succeeded s u.completeOk :=
  ⟨rfl, by rw [State.completeOk_status, h.keepsStatus]⟩

theorem Writes.completeOk_keepsSettings {s u : State} (h : Writes s u) : KeepsSettings s u.completeOk :=
  { h.keepsSettings with }

/-- A command whose only write replaces a buffer leaves everything else as it was (00_scope.md R12). -/
theorem exec_of_body_setBsb {i : Instr} {b : Buf} {bits : List Bool} {s : State}
    (h : body i s = .ok (s.setBsb b bits)) (hi : i ≠ .softReset) : ∃ t, exec i s = .next t ∧ t.bsb b = bits ∧
      KeepsOtherBuffer b s t ∧ Succeeded s t ∧ KeepsSettings s t ∧ t.res = s.res ∧ KeepsTable s t ∧ KeepsRams s t := by
  have hw := writes_of_body_ok h hi
  refine ⟨_, exec_of_body_ok h, by simp, fun c hc => ?_, hw.succeeded, hw.completeOk_keepsSettings, by simp,
    ⟨fun j => by simp, by simp⟩, fun r x => by simp⟩
  rw [State.completeOk_bsb, State.setBsb_bsb_other _ _ _ _ hc]

/-! ### Appends -/

section
variable {i : Instr} {b : Buf} {bits : List Bool} {s : State}

/-- A command that appends bits for which its buffer has room (41_bitseq.md R101). -/
theorem exec_of_append_fits (h : body i s = s.appendBits b bits) (hi : i ≠ .softReset)
    (hfit : (s.bsb b).length + bits.length ≤ s.params.bsbCapBits) :
    ∃ t, exec i s = .next t ∧ t.bsb b = s.bsb b ++ bits ∧
      KeepsOtherBuffer b s t ∧ Succeeded s t ∧ KeepsSettings s t ∧ t.res = s.res ∧ KeepsTable s t ∧ KeepsRams s t :=
  exec_of_body_setBsb (h.trans (if_neg (Nat.not_lt.2 hfit))) hi

/-- A command that appends bits for which its buffer has no room (41_bitseq.md R101). -/
theorem failsWith_of_append_full (h : body i s = s.appendBits b bits)
    (hfull : s.params.bsbCapBits < (s.bsb b).length + bits.length) : FailsWith .allocationFailure i s :=
  failsWith_of_body (h.trans (if_pos hfull))

end

theorem body_appendNum {b : Buf} {n : Nat} {s : State} (hn : n ≤ 32) :
    body (.bsbAppendNum b n) s = s.appendBits b (lowBits n s.arg0) := if_neg (Nat.not_lt.2 hn)

/-- The word of BSB_APPEND_NUM, its fields as numbers (30_encoding.md R71, R75). -/
theorem encode_appendNum (b : Buf) {n : Nat} (hn : n < 64) :
    encode (.bsbAppendNum b n) = BitVec.ofNat 32 (0x12 + 256 * bufNum b + 65536 * n) := by
  have all : ∀ n < 64, encode (.bsbAppendNum b n) = BitVec.ofNat 32 (0x12 + 256 * bufNum b + 65536 * n) := by
    cases b <;> decide
  exact all n hn

theorem byteBits_eq (v : Byte) : byteBits v = (List.range 8).map fun k => v.getLsbD (7 - k) := rfl

/-- The bits of the DATA_RAM range that ARG0 and ARG1 give (41_bitseq.md R105). -/
def State.dataBits (s : State) : List Bool := (s.readRam .data s.arg0.toNat s.arg1.toNat).flatMap byteBits

theorem State.dataBits_eq (s : State) : s.dataBits = (List.range s.arg1.toNat).flatMap fun j =>
    (List.range 8).map fun k => (s.ramByte .data (s.arg0.toNat + j)).getLsbD (7 - k) := by
  simp only [State.dataBits, State.readRam, List.flatMap_map, byteBits_eq]

@[simp] theorem State.dataBits_length (s : State) : s.dataBits.length = 8 * s.arg1.toNat := by
  simp [State.dataBits, List.length_flatMap, Nat.mul_comm]

theorem body_appendBytes {b : Buf} {s : State} (h : s.arg0.toNat + s.arg1.toNat ≤ s.params.dataRamBytes) :
    body (.bsbAppendBytes b) s = s.appendBits b s.dataBits := if_neg (by simpa [State.dataRangeOk] using h)

/-! ### Reading one bit -/

theorem State.getBit_some {s : State} {b : Buf} {v : Bool} (h : (s.bsb b)[s.arg0.toNat]? = some v) :
    s.getBit b = .ok (s.setRes0 v.toNat) := by rw [State.getBit, h]

theorem State.getBit_none {s : State} {b : Buf} (h : (s.bsb b).length ≤ s.arg0.toNat) :
    s.getBit b = .error .invalidIndex := by rw [State.getBit, List.getElem?_eq_none h]

/-! ### Packing -/

/-- Eight bits weighted from 128 down to 1 are the byte with those bits. -/
theorem byteBits_ofNat_sum : ∀ b0 b1 b2 b3 b4 b5 b6 b7 : Bool,
    byteBits (BitVec.ofNat 8 [b0.toNat * 2 ^ 7, b1.toNat * 2 ^ 6, b2.toNat * 2 ^ 5, b3.toNat * 2 ^ 4, b4.toNat * 2 ^ 3,
      b5.toNat * 2 ^ 2, b6.toNat * 2 ^ 1, b7.toNat * 2 ^ 0].sum) = [b0, b1, b2, b3, b4, b5, b6, b7] := by decide

/-- The eight bits of a packed byte, first bit in bit 7 (41_bitseq.md R108). -/
theorem byteBits_packedByte (bits : List Bool) (j : Nat) :
    byteBits (packedByte bits j) = (List.range 8).map fun k => bits.getD (8 * j + k) false :=
  byteBits_ofNat_sum _ _ _ _ _ _ _ _

/-- Consecutive groups of eight make up the whole range. -/
theorem flatMap_range_groups (f : Nat → Bool) (n : Nat) :
    ((List.range n).flatMap fun j => (List.range 8).map fun k => f (8 * j + k)) = (List.range (8 * n)).map f := by
  induction n with
  | zero => rfl
  | succ n ih => simp [List.range_succ (n := n), ih, Nat.mul_succ, List.range_add]

theorem map_getD_range {bits : List Bool} {n : Nat} (h : bits.length ≤ n) :
    (List.range n).map (bits.getD · false) = bits ++ List.replicate (n - bits.length) false := by
  refine List.ext_getElem (by simp; omega) fun i hi _ => ?_
  rcases Nat.lt_or_ge i bits.length with hlt | hge
  · simp [hlt]
  · simp [hge]

/-- Packing and reading the bits back pads with zeros to whole bytes (41_bitseq.md R109). -/
theorem flatMap_byteBits_packBits (bits : List Bool) : (packBits bits).flatMap byteBits =
    bits ++ List.replicate (8 * ((bits.length + 7) / 8) - bits.length) false := by
  rw [← map_getD_range (by omega), ← flatMap_range_groups]
  simp only [packBits, List.flatMap_map, byteBits_packedByte]

theorem packedByte_getLsbD (bits : List Bool) (j : Nat) {k : Nat} (hk : k < 8) :
    (packedByte bits j).getLsbD (7 - k) = bits.getD (8 * j + k) false := by
  have hbits := byteBits_packedByte bits j
  rw [byteBits_eq] at hbits
  exact List.map_inj_left.1 hbits k (List.mem_range.2 hk)

/-- Reading back a range that has just been written. -/
theorem State.readRam_writeRam_same (s : State) (r : Ram) (a : Nat) (vs : List Byte) :
    (s.writeRam r a vs).readRam r a vs.length = vs := by
  refine List.ext_getElem (by simp) fun i _ hi => ?_
  simp [State.readRam, State.ramByte_writeRam_same, hi]

/-- The state BSB_PACK's writes make: the bytes of the buffer at ARG0, and their count in RES0 (41_bitseq.md R108). -/
def State.packed (s : State) (b : Buf) : State :=
  (s.writeRam .data s.arg0.toNat (packBits (s.bsb b))).setRes0 (packBits (s.bsb b)).length

theorem body_pack {b : Buf} {s : State} (h : s.arg0.toNat + ((s.bsb b).length + 7) / 8 ≤ s.params.dataRamBytes) :
    body (.bsbPack b) s = .ok (s.packed b) := if_neg (by simpa [State.dataRangeOk] using h)

section
variable (s : State) (b : Buf)

@[simp] theorem State.packed_res :
    (s.packed b).res = { s.res with res0 := BitVec.ofNat 32 (((s.bsb b).length + 7) / 8) } := by simp [State.packed]

@[simp] theorem State.packed_segCount : (s.packed b).segCount = s.segCount := by simp [State.packed]

@[simp] theorem State.packed_bsb (c : Buf) : (s.packed b).bsb c = s.bsb c := by simp [State.packed]

@[simp] theorem State.packed_segEntry (j : Nat) : (s.packed b).segEntry j = s.segEntry j := by simp [State.packed]

theorem State.packed_ramByte_inside {j : Nat} (hj : j < ((s.bsb b).length + 7) / 8) :
    (s.packed b).ramByte .data (s.arg0.toNat + j) = packedByte (s.bsb b) j := by
  simp [State.packed, State.ramByte_writeRam_same, hj, packBits]

theorem State.packed_ramByte_outside {x : Nat}
    (hx : x < s.arg0.toNat ∨ s.arg0.toNat + ((s.bsb b).length + 7) / 8 ≤ x) :
    (s.packed b).ramByte .data x = s.ramByte .data x := by
  rw [State.packed, State.setRes0_ramByte, State.ramByte_writeRam_same, dif_neg (by rw [packBits_length]; omega)]

theorem State.packed_ramByte_other {q : Ram} (hq : q ≠ .data) (x : Nat) : (s.packed b).ramByte q x = s.ramByte q x := by
  rw [State.packed, State.setRes0_ramByte, State.ramByte_writeRam_other _ _ _ _ _ _ hq]

end

/-- The state in which BSB_PACK has completed and the host has copied its byte count to ARG1 (41_bitseq.md R109). -/
def State.packedReadback (s : State) (b : Buf) : State :=
  { (s.packed b).completeOk with arg1 := (s.packed b).completeOk.res.res0 }

theorem State.packedReadback_params (s : State) (b : Buf) : (s.packedReadback b).params = s.params := rfl

theorem State.packedReadback_arg0 (s : State) (b : Buf) : (s.packedReadback b).arg0 = s.arg0 := rfl

theorem State.packedReadback_bsb (s : State) (b c : Buf) : (s.packedReadback b).bsb c = s.bsb c := by
  rw [← s.packed_bsb b c]
  cases c <;> rfl

theorem State.packedReadback_arg1 {s : State} {b : Buf} (h : ((s.bsb b).length + 7) / 8 < 2 ^ 32) :
    (s.packedReadback b).arg1.toNat = ((s.bsb b).length + 7) / 8 := by
  rw [State.packedReadback, State.completeOk_res, State.packed_res, BitVec.toNat_ofNat, Nat.mod_eq_of_lt h]

/-- The range that BSB_APPEND_BYTES then reads holds the bytes BSB_PACK has written. -/
theorem State.packedReadback_dataBits {s : State} {b : Buf} (h : ((s.bsb b).length + 7) / 8 < 2 ^ 32) :
    (s.packedReadback b).dataBits = (packBits (s.bsb b)).flatMap byteBits := by
  have hread : (s.packedReadback b).readRam .data s.arg0.toNat (packBits (s.bsb b)).length = packBits (s.bsb b) :=
    State.readRam_writeRam_same s .data s.arg0.toNat (packBits (s.bsb b))
  rw [State.dataBits, State.packedReadback_arg1 h, ← packBits_length]
  exact congrArg (List.flatMap byteBits) hread

end Sys2Proof.Machine

open Sys2Proof Sys2Proof.Machine

/-- Settles O24: the body replaces the buffer by the empty one, in every state. -/
theorem clearEmptiesOneBuffer : Obligations.ClearEmptiesOneBuffer :=
  ⟨fun b => by cases b <;> decide, usesOnly_of_rows (by decide) (by decide), fun _ _ => exec_of_body_setBsb rfl nofun⟩

/-- Settles O25: the body is an append of one bit. -/
theorem appendBitAppendsOneBit : Obligations.AppendBitAppendsOneBit :=
  ⟨fun b f => by cases b <;> cases f <;> decide, usesOnly_of_rows (by decide) (by decide), fun b f s =>
    have happend : body (.bsbAppendBit b f) s = s.appendBits b [f] := rfl
    ⟨exec_of_append_fits happend nofun, failsWith_of_append_full happend⟩⟩

/-- Settles O26: N is checked first; the body is then an append of the low N bits. -/
theorem appendNumAppendsLowBits : Obligations.AppendNumAppendsLowBits := by
  refine ⟨fun b n hn => ?_, usesOnly_of_rows (by decide) (by decide), fun b n s =>
    ⟨fun hn hfit => ?_, fun hn => ?_, fun hn hfull => ?_⟩⟩
  · rw [← encode_appendNum b hn]
    exact decode_encode (decide_eq_true hn)
  · exact exec_of_append_fits (body_appendNum hn) nofun (by simpa using hfit)
  · exact failsWith_of_body (if_pos hn)
  · exact failsWith_of_append_full (body_appendNum hn) (by rwa [lowBits_length])

/-- Settles O27: the range is checked first; the body is then an append of the range's bits. -/
theorem appendBytesAppendsDataBits : Obligations.AppendBytesAppendsDataBits := by
  refine ⟨fun b => by cases b <;> decide, usesOnly_of_rows (by decide) (by decide), fun b s =>
    ⟨fun hrange hfit => ?_, fun hrange => ?_, fun hrange hfull => ?_⟩⟩
  · rw [← State.dataBits_eq]
    exact exec_of_append_fits (body_appendBytes hrange) nofun (by rwa [State.dataBits_length])
  · exact failsWith_of_body (if_pos (by simpa [State.dataRangeOk] using hrange))
  · exact failsWith_of_append_full (body_appendBytes hrange) (by rwa [State.dataBits_length])

/-- Settles O28: the body is an append of the source buffer as the snapshot has it. -/
theorem appendSeqAppendsOtherBuffer : Obligations.AppendSeqAppendsOtherBuffer :=
  ⟨fun b src => by cases b <;> cases src <;> decide, usesOnly_of_rows (by decide) (by decide), fun _ _ _ =>
    ⟨exec_of_append_fits rfl nofun, failsWith_of_append_full rfl⟩⟩

/-- Settles O29: the body writes the indexed bit to RES0, or finds none. -/
theorem getBitReadsIndexedBit : Obligations.GetBitReadsIndexedBit := by
  refine ⟨fun b => by cases b <;> decide, usesOnly_of_rows (by decide) (by decide), fun b s =>
    ⟨fun v hv => ?_, fun hlen => failsWith_of_body (State.getBit_none hlen)⟩⟩
  have hbody : body (.bsbGetBit b) s = .ok (s.setRes0 v.toNat) := State.getBit_some hv
  have hw := writes_of_body_ok hbody nofun
  refine ⟨_, exec_of_body_ok hbody, ?_, by simp [KeepsRes1to7], fun c => by simp, hw.succeeded, hw.completeOk_keepsSettings,
    ⟨fun j => by simp, rfl⟩, fun r x => by simp⟩
  cases v <;> rfl

/-- Settles O30: the range is checked first; the body then answers `packed`, whose bytes and frame are read off. -/
theorem packWritesBufferBytes : Obligations.PackWritesBufferBytes := by
  refine ⟨fun b => by cases b <;> decide, usesOnly_of_rows (by decide) (by decide), fun b s =>
    ⟨fun hrange => ?_, fun hrange => ?_⟩⟩
  · have hbody := body_pack hrange
    have hw := writes_of_body_ok hbody nofun
    refine ⟨_, exec_of_body_ok hbody, ?bytes, ?outside, ?others, by simp, by simp [KeepsRes1to7], fun c => by simp,
      hw.succeeded, hw.completeOk_keepsSettings, fun j => by simp, by simp⟩
    case bytes =>
      intro j hj k hk
      rw [State.completeOk_ramByte, State.packed_ramByte_inside s b hj, packedByte_getLsbD _ _ hk]
    case outside =>
      intro x hx
      rw [State.completeOk_ramByte, State.packed_ramByte_outside s b hx]
    case others =>
      intro q hq x
      rw [State.completeOk_ramByte, State.packed_ramByte_other s b hq]
  · exact failsWith_of_body (if_pos (by simpa [State.dataRangeOk] using hrange))

/-- Settles O31: BSB_APPEND_BYTES reads back the bytes that BSB_PACK wrote, and their bits are the buffer's, padded. -/
theorem packThenAppendReproducesBuffer : Obligations.PackThenAppendReproducesBuffer := by
  intro b c s hc hempty hrange hram hfit
  have hcount : ((s.bsb b).length + 7) / 8 < 2 ^ 32 := by omega
  have harg1 := State.packedReadback_arg1 hcount
  have happend : body (.bsbAppendBytes c) (s.packedReadback b) =
      (s.packedReadback b).appendBits c (s.packedReadback b).dataBits :=
    body_appendBytes (by rwa [State.packedReadback_params, State.packedReadback_arg0, harg1])
  obtain ⟨u, hu, hbits, hother, -⟩ := exec_of_append_fits happend nofun
    (by rwa [State.packedReadback_bsb, hempty, List.length_nil, Nat.zero_add, State.dataBits_length, harg1,
      State.packedReadback_params])
  refine ⟨_, u, exec_of_body_ok (body_pack hrange), hu, ?_, ?_⟩
  · rw [hbits, State.packedReadback_bsb, hempty, List.nil_append, State.packedReadback_dataBits hcount, flatMap_byteBits_packBits]
  · rw [hother b hc.symm, State.packedReadback_bsb]
end

section
/-! SUPPORT. The split of an input is the scan of 42_segmenter.md R136, and what the scan emits holds the class of its mode and is
no more segments than bytes (R137). -/

namespace Sys2Proof.Machine

/-! ### The scan -/

/-- The absorb that `split` selects is the one the scan takes (42_segmenter.md R136). -/
theorem scanEmits_absorb {w : Widths} {t : List Byte} {i : Nat} {rest : List Segment} (hi : i < t.length)
    (hrest : ScanEmits w t (i + (absorb w (t.map classOf) i).len) rest) :
    ScanEmits w t i (⟨(absorb w (t.map classOf) i).mode, i, (absorb w (t.map classOf) i).len⟩ :: rest) := by
  unfold absorb at hrest ⊢
  rcases clsAt_cases t i with ⟨hc, hd, -⟩ | ⟨hc, hd, ha, -⟩ | ⟨hc, -, -, hb, -⟩ | ⟨-, -, -, -, hlen⟩
  · rw [hc] at hrest ⊢
    exact .numeric hd (absorbNum_spec w t i) hrest
  · rw [hc] at hrest ⊢
    exact .alnum ha hd (absorbAn_spec w t i) hrest
  · rw [hc] at hrest ⊢
    exact .byte hb (absorbByte_spec w t i).2 hrest
  · omega

theorem splitFrom_scanEmits (w : Widths) (t : List Byte) : ∀ fuel i, t.length ≤ fuel + i →
    ScanEmits w t i (splitFrom w (t.map classOf) fuel i) := by
  intro fuel
  induction fuel with
  | zero => exact fun i h => .atEnd (by omega)
  | succ f ih =>
    intro i h
    rw [splitFrom, List.length_map]
    by_cases hi : i < t.length
    · obtain ⟨hpos, -⟩ := absorb_takesSome w t i hi
      rw [if_pos hi]
      exact scanEmits_absorb hi (ih _ (by omega))
    · rw [if_neg hi]
      exact .atEnd (by omega)

/-- The split of an input is what the scan from its first byte emits (42_segmenter.md R136). -/
theorem split_scanEmits (w : Widths) (t : List Byte) : ScanEmits w t 0 (split w t) :=
  splitFrom_scanEmits w t t.length 0 (by omega)

theorem resumeWidth_eq (x : AnResumeLi) (ln la : Nat) : resumeWidth x ln la = if x = .ln then ln else la := by
  cases x <;> rfl

/-- A tiling has at most as many segments as bytes, each segment taking one or more. -/
theorem Tiles.length_le {len : Nat} {gs : List Segment} {i : Nat} (h : Tiles len i gs) : i + gs.length ≤ len := by
  induction gs generalizing i with
  | nil => exact Nat.le_of_eq h
  | cons g gs ih =>
    obtain ⟨-, hpos, hrest⟩ := h
    have := ih hrest
    rw [List.length_cons]
    omega

/-! ### The class of a segment's bytes -/

theorem classOf_of_digitAt {t : List Byte} {i : Nat} {c : Byte} (hc : t[i]? = some c) (h : digitAt t i = true) :
    classOf c = .num := by
  rw [← clsAt_isNum, clsAt_map, hc] at h
  simpa [CharClass.isNum] using h

theorem classOf_of_alnumAt {t : List Byte} {i : Nat} {c : Byte} (hc : t[i]? = some c) (h : alnumAt t i = true) :
    classOf c = .num ∨ classOf c = .an := by
  rw [← clsAt_isAn, clsAt_map, hc] at h
  simpa [CharClass.isAn] using h

/-- A byte of a segment is the text's byte at a position of the segment. -/
theorem exists_position_of_mem_segment {t : List Byte} {st n : Nat} {c : Byte} (h : c ∈ (t.drop st).take n) :
    ∃ j, st ≤ j ∧ j < st + n ∧ t[j]? = some c := by
  obtain ⟨k, hk, rfl⟩ := List.mem_take_iff_getElem.1 h
  rw [List.length_drop] at hk
  exact ⟨st + k, by omega, by omega, by rw [List.getElem_drop, List.getElem?_eq_getElem]⟩

theorem matchesBytes_num {t : List Byte} {st n : Nat} (h : ∀ j, st ≤ j → j < st + n → digitAt t j = true) :
    Segment.matchesBytes t ⟨.num, st, n⟩ := by
  intro c hc
  obtain ⟨j, hlo, hhi, hj⟩ := exists_position_of_mem_segment hc
  exact classOf_of_digitAt hj (h j hlo hhi)

theorem matchesBytes_an {t : List Byte} {st n : Nat} (h : ∀ j, st ≤ j → j < st + n → alnumAt t j = true) :
    Segment.matchesBytes t ⟨.an, st, n⟩ := by
  intro c hc
  obtain ⟨j, hlo, hhi, hj⟩ := exists_position_of_mem_segment hc
  exact classOf_of_alnumAt hj (h j hlo hhi)

/-- R137 asks nothing of a Byte segment. -/
theorem matchesBytes_byte (t : List Byte) (st n : Nat) : Segment.matchesBytes t ⟨.byte, st, n⟩ := fun _ _ => trivial

/-- Whatever the loop of absorb-alphanumeric passes is Alphanumeric (42_segmenter.md R134). -/
theorem AlnumLoop.alnumAt_of_passed {w : Widths} {t : List Byte} {st p e : Nat} (h : AlnumLoop w t st p e) :
    ∀ j, p ≤ j → j < e → alnumAt t j = true := by
  induction h with
  | atEnd | digitsCheaper => intro j hlo hhi; omega
  | @digitsKept p q e _ hrun _ _ ih =>
    intro j hlo hhi
    by_cases hj : j < q
    · exact alnumAt_of_digitAt (hrun.2.1 j hlo hj)
    · exact ih j (by omega) hhi
  | @letterTaken p e ha _ _ ih =>
    intro j hlo hhi
    by_cases hj : j = p
    · rw [hj, ha]
    · exact ih j (by omega) hhi

theorem AbsorbsAlnum.matchesBytes {w : Widths} {t : List Byte} {st n : Nat} {m : SegMode} (h : AbsorbsAlnum w t st m n) :
    Segment.matchesBytes t ⟨m, st, n⟩ := by
  cases h with
  | toByte => exact matchesBytes_byte t st n
  | stays hloop _ => exact matchesBytes_an hloop.alnumAt_of_passed

theorem AbsorbsNumeric.matchesBytes {w : Widths} {t : List Byte} {st n : Nat} {m : SegMode} (h : AbsorbsNumeric w t st m n) :
    Segment.matchesBytes t ⟨m, st, n⟩ := by
  cases h with
  | toByte => exact matchesBytes_byte t st n
  | toAlnum _ _ _ ha => exact ha.matchesBytes
  | stays hrun _ _ => exact matchesBytes_num hrun.2.1

/-- Every segment the scan emits holds the class of its mode (42_segmenter.md R137). -/
theorem ScanEmits.matchesBytes {w : Widths} {t : List Byte} {i : Nat} {gs : List Segment} (h : ScanEmits w t i gs) :
    ∀ g ∈ gs, g.matchesBytes t := by
  induction h with
  | atEnd => exact fun g hg => absurd hg List.not_mem_nil
  | numeric _ hn _ ih => exact List.forall_mem_cons.2 ⟨hn.matchesBytes, ih⟩
  | alnum _ _ ha _ ih => exact List.forall_mem_cons.2 ⟨ha.matchesBytes, ih⟩
  | byte _ _ _ ih => exact List.forall_mem_cons.2 ⟨matchesBytes_byte t _ _, ih⟩

end Sys2Proof.Machine

open Sys2Proof Sys2Proof.Machine

/-- Settles O32: every absorb takes a byte or more, so the segments tile the input and are no more than its bytes. -/
theorem splitTilesTheInput : Obligations.SplitTilesTheInput := by
  intro x v text
  have htiles := split_tiles (widthsFor x v) text
  exact ⟨htiles, by simpa using htiles.length_le⟩

/-- Settles O60: each absorb of the model is the one its comparisons describe, and the scan strings them together. -/
theorem splitFollowsTheComparisons : Obligations.SplitFollowsTheComparisons := by
  intro x v text w
  have hw : w = widthsFor x v := by simp only [w, widthsFor, resumeWidth_eq]
  rw [hw]
  exact split_scanEmits (widthsFor x v) text

/-- Settles O33: a Numeric segment is a run of digits, and an Alphanumeric one is what the loop of absorb-alphanumeric passed. -/
theorem segmentsHoldTheirClass : Obligations.SegmentsHoldTheirClass :=
  fun x v text => (split_scanEmits (widthsFor x v) text).matchesBytes

/-- Settles O34: the segmenter evaluated on the worked tie. -/
theorem tieKeepsDigitsInAlphanumeric : Obligations.TieKeepsDigitsInAlphanumeric := by
  unfold Obligations.TieKeepsDigitsInAlphanumeric
  decide
end

section
/-! SUPPORT. The errors of SEG_SPLIT, in the order of their checks (42_segmenter.md R140). -/

namespace Sys2Proof.Machine

theorem State.segSplit_invalidInput {s : State} (f : Bool)
    (h : s.arg1.toNat = 0 ∨ 65535 < s.arg1.toNat ∨ 40 < s.version.toNat) : s.segSplit f = .error .invalidInput := by
  unfold State.segSplit
  dsimp only
  by_cases hlen : s.arg1.toNat = 0 ∨ 65535 < s.arg1.toNat
  · rw [if_pos hlen]
  · rw [if_neg hlen, if_pos (by omega)]

/-- Past the checks of length and version, the range is checked before the number of segments (60_exceptions.md R253). -/
theorem State.segSplit_eq {s : State} (f : Bool) (hpos : 1 ≤ s.arg1.toNat) (hmax : s.arg1.toNat ≤ 65535)
    (hv : s.version.toNat ≤ 40) : s.segSplit f =
      if s.params.dataRamBytes < s.arg0.toNat + s.arg1.toNat then .error .badAddress
      else if s.params.nsegMax < (s.segOut f).length then .error .allocationFailure
      else .ok (s.segWritten f) := by
  have hrange : (!s.dataRangeOk s.arg0.toNat s.arg1.toNat) = true ↔ s.params.dataRamBytes < s.arg0.toNat + s.arg1.toNat := by
    simp [State.dataRangeOk]
  unfold State.segSplit
  dsimp only
  rw [if_neg (by omega), if_neg (by omega), ← State.segText_eq, ← State.segOut]
  simp only [hrange]
  rfl

end Sys2Proof.Machine

open Sys2Proof Sys2Proof.Machine

/-- Settles O36: the body's checks come in this order, and an error writes STATUS alone. -/
theorem segSplitErrors : Obligations.SegSplitErrors := by
  refine fun f s => ⟨fun h => failsWith_of_body (State.segSplit_invalidInput f h), fun hpos hmax hv =>
    ⟨fun hrange => failsWith_of_body ?badAddress, fun hrange hout => failsWith_of_body ?allocationFailure⟩⟩
  all_goals refine (State.segSplit_eq f hpos hmax hv).trans ?_
  case badAddress => rw [if_pos hrange]
  case allocationFailure => rw [if_neg (by omega), if_pos hout]
end

section
/-! SUPPORT. Arithmetic of GF(256) (43_reed_solomon.md R160): every byte comes from 1 by doubling and XOR, so a law of the product is
checked at 1 and carried through the two. -/

namespace Sys2Proof.Machine

/-! ### Doubling -/

theorem gfDouble_xor (a b : Byte) : gfDouble (a ^^^ b) = gfDouble a ^^^ gfDouble b := by
  unfold gfDouble
  rw [BitVec.getLsbD_xor, BitVec.shiftLeft_xor_distrib]
  cases a.getLsbD 7 <;> cases b.getLsbD 7
  · rfl
  · exact BitVec.xor_assoc _ _ _
  · show a <<< 1 ^^^ b <<< 1 ^^^ 0x1D#8 = (a <<< 1 ^^^ 0x1D#8) ^^^ b <<< 1
    ac_rfl
  · calc a <<< 1 ^^^ b <<< 1 = a <<< 1 ^^^ b <<< 1 ^^^ (0x1D#8 ^^^ 0x1D#8) := by rw [BitVec.xor_self, BitVec.xor_zero]
      _ = (a <<< 1 ^^^ 0x1D#8) ^^^ (b <<< 1 ^^^ 0x1D#8) := by ac_rfl

@[simp] theorem gfDouble_zero : gfDouble 0#8 = 0#8 := by decide

theorem gfDouble_ne_zero : ∀ {a : Byte}, a ≠ 0#8 → gfDouble a ≠ 0#8 := by decide

/-! ### The product as Horner's rule over the bits of its right factor -/

/-- Whatever doubling and adding `a` keep, the loop of the product keeps. -/
theorem gmulFrom_induction {P : Byte → Prop} {a : Byte} (ha : P a) (hdouble : ∀ r, P r → P (gfDouble r))
    (hxor : ∀ r q, P r → P q → P (r ^^^ q)) (b : Byte) (i : Nat) {r : Byte} (hr : P r) : P (gmulFrom a b i r) := by
  induction i generalizing r with
  | zero => exact hr
  | succ i ih =>
    rw [gmulFrom]
    split
    · exact ih (hxor _ _ (hdouble r hr) ha)
    · exact ih (hdouble r hr)

theorem gmulFrom_xor_left (a a' b : Byte) (i : Nat) (r r' : Byte) :
    gmulFrom (a ^^^ a') b i (r ^^^ r') = gmulFrom a b i r ^^^ gmulFrom a' b i r' := by
  induction i generalizing r r' with
  | zero => rfl
  | succ i ih =>
    simp only [gmulFrom, gfDouble_xor]
    split
    · rw [← ih]
      congr 1
      ac_rfl
    · exact ih _ _

theorem gmulFrom_gfDouble_left (a b : Byte) (i : Nat) (r : Byte) :
    gmulFrom (gfDouble a) b i (gfDouble r) = gfDouble (gmulFrom a b i r) := by
  induction i generalizing r with
  | zero => rfl
  | succ i ih =>
    simp only [gmulFrom]
    split
    · rw [← gfDouble_xor, ih]
    · exact ih _

theorem gmul_xor_left (a a' b : Byte) : gmul (a ^^^ a') b = gmul a b ^^^ gmul a' b := gmulFrom_xor_left a a' b 8 0#8 0#8

theorem gmul_gfDouble_left (a b : Byte) : gmul (gfDouble a) b = gfDouble (gmul a b) := gmulFrom_gfDouble_left a b 8 0#8

@[simp] theorem one_gmul : ∀ b : Byte, gmul 0x01#8 b = b := by decide

@[simp] theorem gmul_one : ∀ a : Byte, gmul a 0x01#8 = a := by decide

/-- Every byte comes from 1 by doubling and XOR: it is its own product with 1. -/
theorem byte_induction {P : Byte → Prop} (hone : P 0x01#8) (hdouble : ∀ a, P a → P (gfDouble a))
    (hxor : ∀ a b, P a → P b → P (a ^^^ b)) (b : Byte) : P b := by
  have hzero : P 0#8 := hxor _ _ hone hone
  rw [← one_gmul b]
  exact gmulFrom_induction hone hdouble hxor b 8 hzero

theorem gmul_gfDouble_right (a b : Byte) : gmul a (gfDouble b) = gfDouble (gmul a b) := by
  induction a using byte_induction with
  | hone => simp
  | hdouble a ih => rw [gmul_gfDouble_left, gmul_gfDouble_left, ih]
  | hxor a a' ih ih' => rw [gmul_xor_left, gmul_xor_left, gfDouble_xor, ih, ih']

/-! ### The laws of the field -/

theorem gmul_xor_right (a b c : Byte) : gmul a (b ^^^ c) = gmul a b ^^^ gmul a c := by
  induction a using byte_induction with
  | hone => simp
  | hdouble a ih => simp only [gmul_gfDouble_left, ih, gfDouble_xor]
  | hxor a a' ih ih' =>
    simp only [gmul_xor_left, ih, ih']
    ac_rfl

theorem gmul_comm (a b : Byte) : gmul a b = gmul b a := by
  induction a using byte_induction with
  | hone => simp
  | hdouble a ih => rw [gmul_gfDouble_left, gmul_gfDouble_right, ih]
  | hxor a a' ih ih' => rw [gmul_xor_left, gmul_xor_right, ih, ih']

theorem gmul_assoc (a b c : Byte) : gmul (gmul a b) c = gmul a (gmul b c) := by
  induction a using byte_induction with
  | hone => simp
  | hdouble a ih => simp only [gmul_gfDouble_left, ih]
  | hxor a a' ih ih' => simp only [gmul_xor_left, ih, ih']

@[simp] theorem gmul_zero (a : Byte) : gmul a 0#8 = 0#8 := by
  have h := gmul_xor_right a 0#8 0#8
  rwa [BitVec.xor_self, BitVec.xor_self] at h

@[simp] theorem zero_gmul (a : Byte) : gmul 0#8 a = 0#8 := by rw [gmul_comm, gmul_zero]

/-! ### The powers of α -/

theorem gmul_two (a : Byte) : gmul a 0x02#8 = gfDouble a := by
  rw [show 0x02#8 = gfDouble 0x01#8 by decide, gmul_gfDouble_right, gmul_one]

theorem alphaPow_eq_iterate (i : Nat) : alphaPow i = gfDouble^[i] 0x01#8 := by
  induction i with
  | zero => rfl
  | succ i ih => rw [alphaPow, gmul_two, ih, Function.iterate_succ_apply']

theorem alphaPow_ne_zero (i : Nat) : alphaPow i ≠ 0#8 := by
  induction i with
  | zero => decide
  | succ i ih =>
    rw [alphaPow, gmul_two]
    exact gfDouble_ne_zero ih

theorem alphaPow_255 : alphaPow 255 = 0x01#8 := by decide +kernel

/-- α has order 255: its power is 1 at 255 and at no 255 / p for a prime p (43_reed_solomon.md R160). -/
theorem minimalPeriod_gfDouble : Function.minimalPeriod gfDouble 0x01#8 = 255 := by
  have hdvd (i : Nat) : Function.minimalPeriod gfDouble 0x01#8 ∣ i ↔ alphaPow i = 0x01#8 := by
    rw [← Function.isPeriodicPt_iff_minimalPeriod_dvd, alphaPow_eq_iterate]
    rfl
  have hdiv : ∀ m ∈ Nat.divisors 255, ¬ m ∣ 15 → ¬ m ∣ 51 → ¬ m ∣ 85 → m = 255 := by decide +kernel
  refine hdiv _ (Nat.mem_divisors.2 ⟨(hdvd 255).2 alphaPow_255, by decide⟩) ?_ ?_ ?_ <;> rw [hdvd] <;> decide +kernel

theorem alphaPow_inj {i j : Nat} (hi : i < 255) (hj : j < 255) (h : alphaPow i = alphaPow j) : i = j := by
  rw [alphaPow_eq_iterate, alphaPow_eq_iterate] at h
  rw [← minimalPeriod_gfDouble] at hi hj
  exact (Function.iterate_eq_iterate_iff_of_lt_minimalPeriod hi hj).1 h

/-- The first 255 powers of α are 255 distinct non-zero bytes, so they are all of them. -/
theorem exists_alphaPow_eq {a : Byte} (ha : a ≠ 0#8) : ∃ i, i < 255 ∧ alphaPow i = a := by
  have hpowers : (Finset.range 255).image (fun i => BitVec.toFin (alphaPow i)) = Finset.univ.erase 0 := by
    refine Finset.eq_of_subset_of_card_le (fun b hb => ?_) ?_
    · obtain ⟨i, -, rfl⟩ := Finset.mem_image.1 hb
      refine Finset.mem_erase.2 ⟨fun h => alphaPow_ne_zero i (BitVec.eq_of_toFin_eq h), Finset.mem_univ _⟩
    · rw [Finset.card_image_of_injOn fun i hi j hj h => alphaPow_inj (Finset.mem_range.1 hi) (Finset.mem_range.1 hj)
        (BitVec.eq_of_toFin_eq h)]
      simp
  have hmem : a.toFin ∈ (Finset.range 255).image fun i => BitVec.toFin (alphaPow i) := by
    rw [hpowers]
    exact Finset.mem_erase.2 ⟨fun h => ha (BitVec.eq_of_toFin_eq h), Finset.mem_univ _⟩
  obtain ⟨i, hi, h⟩ := Finset.mem_image.1 hmem
  exact ⟨i, Finset.mem_range.1 hi, BitVec.eq_of_toFin_eq h⟩

end Sys2Proof.Machine

open Sys2Proof Sys2Proof.Machine

/-- Settles O37: the laws are checked at 1 and carried through doubling and XOR; α has order 255, so its powers are all the bytes but 0. -/
theorem fieldLaws : Obligations.FieldLaws := by
  refine ⟨gmul_comm, gmul_assoc, gmul_xor_right, gmul_one, by decide, alphaPow_255, fun a ha => ?_⟩
  obtain ⟨i, hi, rfl⟩ := exists_alphaPow_eq ha
  exact ⟨i, hi, rfl, fun j hj h => alphaPow_inj hj hi h⟩
end

section
/-! SUPPORT. The parity's shift register (43_reed_solomon.md R163), read through polynomials: at a root of the generator one shift is a
step of Horner's rule, scaled by x^n. Read byte by byte, one shift is linear in the register and the data byte. -/

namespace Sys2Proof.Machine

/-! ### Polynomials -/

/-- `x` to the power `n` in GF(256). -/
def gpow (x : Byte) : Nat → Byte
  | 0 => 0x01#8
  | n + 1 => gmul (gpow x n) x

/-- Horner's rule from a value `v`: the coefficients read before stand `cs.length` places higher. -/
theorem foldl_horner (cs : List Byte) (x v : Byte) :
    cs.foldl (fun acc c => gmul acc x ^^^ c) v = gmul v (gpow x cs.length) ^^^ polyEval cs x := by
  induction cs generalizing v with
  | nil => simp [gpow, polyEval]
  | cons c cs ih =>
    rw [polyEval, List.foldl_cons, List.foldl_cons, ih, ih, List.length_cons, gpow, gmul_comm (gpow _ _), ← gmul_assoc, zero_gmul,
      BitVec.zero_xor, gmul_xor_left, BitVec.xor_assoc]

theorem polyEval_append (cs ds : List Byte) (x : Byte) :
    polyEval (cs ++ ds) x = gmul (polyEval cs x) (gpow x ds.length) ^^^ polyEval ds x := by
  rw [polyEval, List.foldl_append, foldl_horner]
  rfl

@[simp] theorem polyEval_nil (x : Byte) : polyEval [] x = 0#8 := rfl

theorem polyEval_cons (c : Byte) (cs : List Byte) (x : Byte) :
    polyEval (c :: cs) x = gmul c (gpow x cs.length) ^^^ polyEval cs x := by
  simpa [polyEval] using polyEval_append [c] cs x

theorem polyEval_concat (cs : List Byte) (c x : Byte) : polyEval (cs ++ [c]) x = gmul (polyEval cs x) x ^^^ c := by
  simp [polyEval]

theorem polyEval_map_gmul (cs : List Byte) (c x : Byte) : polyEval (cs.map (gmul c)) x = gmul c (polyEval cs x) := by
  induction cs with
  | nil => simp
  | cons v cs ih => rw [List.map_cons, polyEval_cons, polyEval_cons, List.length_map, ih, gmul_assoc, gmul_xor_right]

theorem polyEval_zipWith_xor {cs ds : List Byte} (x : Byte) (h : cs.length = ds.length) :
    polyEval (List.zipWith (· ^^^ ·) cs ds) x = polyEval cs x ^^^ polyEval ds x := by
  induction cs generalizing ds with
  | nil => simp [List.eq_nil_of_length_eq_zero h.symm]
  | cons c cs ih =>
    obtain ⟨d, ds, rfl⟩ := List.exists_cons_of_length_eq_add_one h.symm
    have hlen : cs.length = ds.length := Nat.succ.inj h
    simp only [List.zipWith_cons_cons, polyEval_cons, List.length_zipWith, ← hlen, Nat.min_self, ih hlen, gmul_xor_left]
    ac_rfl

/-! ### The generator -/

theorem polyEval_mulRoot (g : List Byte) (c x : Byte) : polyEval (mulRoot g c) x = gmul (polyEval g x) (x ^^^ c) := by
  have hscale : (fun v => gmul v c) = gmul c := funext fun v => gmul_comm v c
  rw [mulRoot, hscale, polyEval_zipWith_xor x (by simp), polyEval_concat, polyEval_cons, polyEval_map_gmul, gmul_xor_right,
    gmul_comm c, zero_gmul, BitVec.xor_zero, BitVec.zero_xor]

/-- The roots of the generator are α^0 to α^(n-1) (43_reed_solomon.md R161). -/
theorem polyEval_generator_root {n i : Nat} (h : i < n) : polyEval (generator n) (alphaPow i) = 0#8 := by
  induction n with
  | zero => omega
  | succ n ih =>
    rw [generator, polyEval_mulRoot]
    rcases Nat.lt_succ_iff_lt_or_eq.1 h with hlt | rfl
    · rw [ih hlt, zero_gmul]
    · rw [BitVec.xor_self, gmul_zero]

/-- The generator is monic (43_reed_solomon.md R161). -/
theorem generator_eq_cons (n : Nat) : generator n = 0x01#8 :: (generator n).tail := by
  induction n with
  | zero => rfl
  | succ n ih =>
    rw [generator, ih]
    simp [mulRoot]

theorem generator_tail_length (n : Nat) : (generator n).tail.length = n := by
  rw [List.length_tail, generator_length, Nat.add_sub_cancel]

/-- At a root the generator's terms below x^n have the value x^n. -/
theorem polyEval_generator_tail {n i : Nat} (h : i < n) :
    polyEval (generator n).tail (alphaPow i) = gpow (alphaPow i) n := by
  have hroot := polyEval_generator_root h
  rw [generator_eq_cons, polyEval_cons, one_gmul, generator_tail_length] at hroot
  exact (BitVec.xor_eq_zero_iff.1 hroot).symm

/-! ### One shift -/

theorem rsShift_eq (g reg : List Byte) (d : Byte) : rsShift g reg d =
    List.zipWith (· ^^^ ·) (reg.tail ++ [0#8]) (g.map (gmul (d ^^^ reg.headD 0#8))) := by
  rw [List.zipWith_map_right]
  rfl

/-- Where the generator vanishes, a shift multiplies the register's value by x and adds the data byte at x^n. -/
theorem polyEval_rsShift {g reg : List Byte} (d x : Byte) (hlen : reg.length = g.length)
    (hroot : polyEval g x = gpow x g.length) (hpos : 0 < g.length) :
    polyEval (rsShift g reg d) x = gmul (polyEval reg x) x ^^^ gmul d (gpow x g.length) := by
  obtain ⟨r, reg, rfl⟩ := List.exists_cons_of_length_pos (hlen ▸ hpos)
  have hpow : gpow x g.length = gmul (gpow x reg.length) x := by rw [← hlen, List.length_cons, gpow]
  rw [rsShift_eq, polyEval_zipWith_xor x (by simpa using hlen), polyEval_map_gmul, hroot, List.tail_cons, List.headD_cons,
    polyEval_concat, polyEval_cons, hpow, gmul_xor_left, gmul_xor_left, gmul_assoc]
  simp only [BitVec.xor_zero]
  ac_rfl

theorem rsParity_concat (d : List Byte) (v : Byte) (n : Nat) :
    rsParity (d ++ [v]) n = rsShift (generator n).tail (rsParity d n) v := by
  rw [rsParity, List.foldl_append]
  rfl

theorem rsParity_nil (n : Nat) : rsParity [] n = List.replicate n 0#8 := rfl

theorem polyEval_zeros (n : Nat) (x : Byte) : polyEval (List.replicate n 0#8) x = 0#8 := by
  induction n with
  | zero => rfl
  | succ n ih => rw [List.replicate_succ, polyEval_cons, ih, zero_gmul, BitVec.xor_zero]

/-- At a root of the generator the parity has the value of the data times x^n (43_reed_solomon.md R162). -/
theorem polyEval_rsParity (d : List Byte) {n i : Nat} (h : i < n) :
    polyEval (rsParity d n) (alphaPow i) = gmul (polyEval d (alphaPow i)) (gpow (alphaPow i) n) := by
  induction d using List.reverseRecOn with
  | nil => rw [rsParity_nil, polyEval_zeros, polyEval_nil, zero_gmul]
  | append_singleton d v ih =>
    have hlen := generator_tail_length n
    rw [rsParity_concat, polyEval_rsShift v _ ((rsParity_length d n).trans hlen.symm) (by rw [polyEval_generator_tail h, hlen])
      (by omega), ih, hlen, polyEval_concat, gmul_xor_left, gmul_assoc, gmul_assoc, gmul_comm (gpow _ _)]

/-! ### The register byte by byte -/

theorem rsShift_getElem {g reg : List Byte} {d : Byte} {j : Nat} (hj : j < (rsShift g reg d).length) (hg : j < g.length) :
    (rsShift g reg d)[j] = reg.getD (j + 1) 0#8 ^^^ gmul (d ^^^ reg.getD 0 0#8) g[j] := by
  cases reg with
  | nil => simp [rsShift]
  | cons r reg =>
    simp only [rsShift, List.getElem_zipWith, List.headD_cons, List.tail_cons, List.getD_cons_zero, List.getD_cons_succ]
    congr 1
    rcases Nat.lt_or_ge j reg.length with hlt | hge
    · simp [hlt]
    · simp [hge, List.getElem_append_right]

theorem getD_zipWith_xor {r r' : List Byte} (h : r.length = r'.length) (j : Nat) :
    (List.zipWith (· ^^^ ·) r r').getD j 0#8 = r.getD j 0#8 ^^^ r'.getD j 0#8 := by
  rcases Nat.lt_or_ge j r.length with hj | hj
  · simp [hj, h ▸ hj]
  · simp [hj, h ▸ hj]

/-- One shift is linear in the register and the data byte. -/
theorem rsShift_xor {g r r' : List Byte} (d d' : Byte) (hr : r.length = g.length) (hr' : r'.length = g.length) :
    rsShift g (List.zipWith (· ^^^ ·) r r') (d ^^^ d') =
      List.zipWith (· ^^^ ·) (rsShift g r d) (rsShift g r' d') := by
  have hzip : (List.zipWith (· ^^^ ·) r r').length = g.length := by simp [hr, hr']
  refine List.ext_getElem (by simp [rsShift_length, hr, hr']) fun j hj _ => ?_
  have hg : j < g.length := by rwa [rsShift_length _ hzip] at hj
  simp only [List.getElem_zipWith, rsShift_getElem _ hg, getD_zipWith_xor (hr.trans hr'.symm)]
  rw [show d ^^^ d' ^^^ (r.getD 0 0#8 ^^^ r'.getD 0 0#8) = (d ^^^ r.getD 0 0#8) ^^^ (d' ^^^ r'.getD 0 0#8) by ac_rfl, gmul_xor_left]
  ac_rfl

theorem foldl_rsShift_xor {g : List Byte} {d d' r r' : List Byte} (hd : d.length = d'.length) (hr : r.length = g.length)
    (hr' : r'.length = g.length) :
    (List.zipWith (· ^^^ ·) d d').foldl (rsShift g) (List.zipWith (· ^^^ ·) r r') =
      List.zipWith (· ^^^ ·) (d.foldl (rsShift g) r) (d'.foldl (rsShift g) r') := by
  induction d generalizing d' r r' with
  | nil => simp [List.eq_nil_of_length_eq_zero hd.symm]
  | cons v d ih =>
    obtain ⟨v', d', rfl⟩ := List.exists_cons_of_length_eq_add_one hd.symm
    rw [List.zipWith_cons_cons, List.foldl_cons, List.foldl_cons, List.foldl_cons, rsShift_xor v v' hr hr']
    exact ih (Nat.succ.inj hd) (rsShift_length v hr) (rsShift_length v' hr')

/-- From the empty register, a byte leaves its multiple of the generator. -/
theorem rsShift_zeros (g : List Byte) (d : Byte) : rsShift g (List.replicate g.length 0#8) d = g.map (gmul d) := by
  have hlen := rsShift_length d (List.length_replicate (n := g.length) (a := 0#8))
  refine List.ext_getElem (by simpa using hlen) fun j hj _ => ?_
  rw [rsShift_getElem hj (by rwa [hlen] at hj)]
  simp

/-! ### The laws of the parity -/

/-- Linearity of the parity (43_reed_solomon.md R164). -/
theorem rsParity_xor {d d' : List Byte} (n : Nat) (h : d.length = d'.length) :
    rsParity (List.zipWith (· ^^^ ·) d d') n = List.zipWith (· ^^^ ·) (rsParity d n) (rsParity d' n) := by
  have hlen : (rsParity [] n).length = (generator n).tail.length := by rw [rsParity_length, generator_tail_length]
  have hempty : List.zipWith (· ^^^ ·) (rsParity [] n) (rsParity [] n) = rsParity [] n := by simp [rsParity_nil]
  have hfold := foldl_rsShift_xor h hlen hlen
  rwa [hempty] at hfold

/-- The parity of one byte is its multiple of the generator's coefficients (43_reed_solomon.md R164). -/
theorem rsParity_singleton (v : Byte) (n : Nat) : rsParity [v] n = (generator n).tail.map (gmul v) := by
  have h := rsShift_zeros (generator n).tail v
  rwa [generator_tail_length] at h

/-- A leading zero byte leaves the register empty (43_reed_solomon.md R164). -/
theorem rsParity_zero_cons (d : List Byte) (n : Nat) : rsParity (0#8 :: d) n = rsParity d n := by
  have hzero : rsParity [0#8] n = rsParity [] n := by
    rw [rsParity_singleton, funext zero_gmul, List.map_const', generator_tail_length, rsParity_nil]
  exact congrArg (d.foldl (rsShift (generator n).tail)) hzero

theorem rsParity_zeros (k n : Nat) : rsParity (List.replicate k 0#8) n = List.replicate n 0#8 := by
  induction k with
  | zero => rfl
  | succ k ih => rw [List.replicate_succ, rsParity_zero_cons, ih]

end Sys2Proof.Machine

open Sys2Proof Sys2Proof.Machine

/-- Settles O38: at a root of the generator the parity's value is that of the data shifted above it, so they cancel. -/
theorem parityMakesValidCodeword : Obligations.ParityMakesValidCodeword := by
  refine fun d n => ⟨rsParity_length d n, fun i hi => ?_⟩
  rw [polyEval_append, rsParity_length, polyEval_rsParity d hi, BitVec.xor_self]

/-- Settles O39: one shift is linear, and from the empty register it leaves the data byte's multiple of the generator. -/
theorem parityLaws : Obligations.ParityLaws := by
  refine ⟨fun d d' n h => rsParity_xor n h, rsParity_zeros, rsParity_zero_cons, fun n => ?_⟩
  rw [rsParity_singleton, funext one_gmul, List.map_id']
end

section
/-! SUPPORT. RS_BLOCK (43_reed_solomon.md R165): how a command that writes one DATA_RAM range and its results ends, and the order of the
checks. -/

namespace Sys2Proof.Machine

/-- The state that a write of one DATA_RAM range and of the result registers makes. -/
def State.writeDataAndResults (s : State) (o : Nat) (vs : List Byte) (res : Results) : State :=
  { s.writeRam .data o vs with res := res }

section
variable (s : State) (o : Nat) (vs : List Byte) (res : Results)

theorem State.writeDataAndResults_ramByte (r : Ram) (x : Nat) :
    (s.writeDataAndResults o vs res).ramByte r x = (s.writeRam .data o vs).ramByte r x := by cases r <;> rfl

theorem State.writeDataAndResults_bsb (b : Buf) : (s.writeDataAndResults o vs res).bsb b = s.bsb b := by cases b <;> rfl

end

/-- A command whose only writes are a DATA_RAM range and the result registers leaves everything else as it was (00_scope.md R12). -/
theorem exec_of_body_writeData {i : Instr} {s : State} {o : Nat} {vs : List Byte} {res : Results}
    (h : body i s = .ok (s.writeDataAndResults o vs res)) (hi : i ≠ .softReset) : ∃ t, exec i s = .next t ∧
      (∀ j, j < vs.length → some (t.ramByte .data (o + j)) = vs[j]?) ∧ KeepsOutside .data o vs.length s t ∧
      KeepsOtherRams .data s t ∧ t.res = res ∧ KeepsBuffers s t ∧ KeepsTable s t ∧ Succeeded s t ∧ KeepsSettings s t := by
  have hw := writes_of_body_ok h hi
  refine ⟨_, exec_of_body_ok h, fun j hj => ?bytes, fun x hx => ?outside, fun q hq x => ?others, rfl, fun b => ?buffers,
    ⟨fun _ => rfl, rfl⟩, hw.succeeded, hw.completeOk_keepsSettings⟩
  case bytes => simp [State.writeDataAndResults_ramByte, State.ramByte_writeRam_same, hj]
  case outside =>
    rw [State.completeOk_ramByte, State.writeDataAndResults_ramByte, State.ramByte_writeRam_same, dif_neg (by omega)]
  case others =>
    rw [State.completeOk_ramByte, State.writeDataAndResults_ramByte, State.ramByte_writeRam_other _ _ _ _ _ _ hq]
  case buffers => rw [State.completeOk_bsb, State.writeDataAndResults_bsb]

theorem State.not_dataRangesOk_iff (s : State) (a n b m : Nat) : (!s.dataRangeOk a n || !s.dataRangeOk b m) = true ↔
    s.params.dataRamBytes < a + n ∨ s.params.dataRamBytes < b + m := by
  simp [State.dataRangeOk]

theorem State.rsBlock_invalidInput {s : State} (h : s.arg1.toNat = 0 ∨ s.arg3.toNat = 0 ∨ 255 < s.arg1.toNat + s.arg3.toNat) :
    s.rsBlock = .error .invalidInput := if_pos h

/-- Past the check of the lengths, RS_BLOCK checks its two ranges and writes the parity of its snapshot (43_reed_solomon.md R165). -/
theorem State.rsBlock_eq {s : State} (hk : 1 ≤ s.arg1.toNat) (hn : 1 ≤ s.arg3.toNat) (hsum : s.arg1.toNat + s.arg3.toNat ≤ 255) :
    s.rsBlock =
      if s.params.dataRamBytes < s.arg0.toNat + s.arg1.toNat ∨ s.params.dataRamBytes < s.arg2.toNat + s.arg3.toNat
      then .error .badAddress
      else .ok (s.writeDataAndResults s.arg2.toNat (rsParity (s.readRam .data s.arg0.toNat s.arg1.toNat) s.arg3.toNat)
        { s.res with res0 := s.arg3 }) := by
  unfold State.rsBlock
  dsimp only
  rw [if_neg (by omega)]
  simp only [State.not_dataRangesOk_iff, State.setRes0, BitVec.ofNat_toNat, BitVec.setWidth_eq]
  rfl

end Sys2Proof.Machine

open Sys2Proof Sys2Proof.Machine

/-- Settles O40: the lengths are checked first, then the ranges; the parity written is that of the data as the snapshot has it. -/
theorem rsBlockWritesParity : Obligations.RsBlockWritesParity := by
  refine ⟨decode_encode (i := .rsBlock) rfl, usesOnly_of_rows (by decide) (by decide), fun s =>
    ⟨fun hk hn hsum => ⟨fun hdata hparity => ?writes, fun hrange => ?badAddress⟩,
      fun h => failsWith_of_body (State.rsBlock_invalidInput h)⟩⟩
  case badAddress => exact failsWith_of_body ((State.rsBlock_eq hk hn hsum).trans (if_pos hrange))
  case writes =>
    have hbody : body .rsBlock s = .ok _ := (State.rsBlock_eq hk hn hsum).trans (if_neg (by omega))
    obtain ⟨t, hexec, hbytes, houtside, hothers, hres, hbufs, htable, hok, hkeeps⟩ := exec_of_body_writeData hbody nofun
    rw [rsParity_length] at hbytes houtside
    exact ⟨t, hexec, hbytes, houtside, hothers, by rw [hres], by simp [KeepsRes1to7, hres], hbufs, htable, hok, hkeeps⟩
end

section
/-! SUPPORT. RS_INTERLEAVE (43_reed_solomon.md R166 to R168): the geometry as numbers, the blocks of a legal geometry in the data stream,
where each byte of a block stands in the output, and the order of the checks. -/

namespace Sys2Proof.Machine

/-! ### The geometry -/

/-- The geometry operands are the bytes of ARG1, and ARG3 (43_reed_solomon.md R167). -/
theorem State.geometry_eq (s : State) : s.geometry = ⟨s.arg1.toNat % 256, s.arg1.toNat / 256 % 256, s.arg1.toNat / 65536 % 256,
    s.arg1.toNat / 16777216, s.arg3.toNat⟩ := by
  have hlt : s.arg1.toNat / 16777216 < 256 := by omega
  simp [State.geometry, BitVec.extractLsb'_toNat, Nat.shiftRight_eq_div_pow, Nat.mod_eq_of_lt hlt]

/-- The legal geometries (43_reed_solomon.md R166). -/
theorem Geometry.legal_iff (g : Geometry) : g.legal = true ↔ 1 ≤ g.b1 ∧ 1 ≤ g.d1 ∧ 1 ≤ g.e ∧ (g.b2 = 0 → g.d2 = 0) ∧
    (1 ≤ g.b2 → g.d2 = g.d1 + 1 ∧ g.d2 + g.e ≤ 255) ∧ g.d1 + g.e ≤ 255 := by
  unfold Geometry.legal
  by_cases h : g.b2 = 0
  · simp [h, and_assoc]
  · have hpos : 1 ≤ g.b2 := Nat.one_le_iff_ne_zero.2 h
    simp [h, hpos, and_assoc]

section
variable {g : Geometry} {r c : Nat}

/-- In a legal geometry the group-2 blocks are one byte longer, so the data is `d1` whole columns and one column of group 2. -/
theorem Geometry.dataLen_eq (h : g.legal = true) : g.dataLen = g.blocks * g.d1 + g.b2 := by
  obtain ⟨-, -, -, hnone, hsome, -⟩ := g.legal_iff.1 h
  rw [Geometry.dataLen, Geometry.blocks]
  rcases Nat.eq_zero_or_pos g.b2 with hb | hb
  · simp [hb]
  · rw [(hsome hb).1]
    ring

theorem Geometry.blockLen_eq (h : g.legal = true) (hr : r < g.blocks) : g.blockLen r = if r < g.b1 then g.d1 else g.d1 + 1 := by
  obtain ⟨-, -, -, -, hsome, -⟩ := g.legal_iff.1 h
  rw [Geometry.blocks] at hr
  unfold Geometry.blockLen
  split
  · rfl
  · exact (hsome (by omega)).1

theorem Geometry.block_eq (g : Geometry) (stream : List Byte) (r : Nat) :
    g.block stream r = (stream.drop (g.blockStart r)).take (g.blockLen r) := by
  unfold Geometry.block Geometry.blockStart Geometry.blockLen
  split <;> rfl

theorem Geometry.blockEnd_le (hr : r < g.blocks) : g.blockStart r + g.blockLen r ≤ g.dataLen := by
  rw [Geometry.blocks] at hr
  unfold Geometry.blockStart Geometry.blockLen Geometry.dataLen
  split
  · next h =>
    have : (r + 1) * g.d1 ≤ g.b1 * g.d1 := Nat.mul_le_mul_right _ h
    rw [Nat.add_one_mul] at this
    omega
  · next h =>
    have : (r - g.b1 + 1) * g.d2 ≤ g.b2 * g.d2 := Nat.mul_le_mul_right _ (by omega)
    rw [Nat.add_one_mul] at this
    omega

theorem State.take_drop_readRam (s : State) (q : Ram) {a n k m : Nat} (h : k + m ≤ n) :
    ((s.readRam q a n).drop k).take m = s.readRam q (a + k) m := by
  refine List.ext_getElem (by simp; omega) fun i _ _ => ?_
  simp [State.readRam, Nat.add_assoc]

theorem State.readRam_getD (s : State) (q : Ram) {a n i : Nat} (h : i < n) :
    (s.readRam q a n).getD i 0#8 = s.ramByte q (a + i) := by
  rw [List.getD_eq_getElem?_getD, s.readRam_get q a n i h, Option.getD_some]

/-- A block of the data stream, as a range of DATA_RAM (43_reed_solomon.md R166). -/
theorem Geometry.block_readRam (s : State) (a : Nat) (hr : r < g.blocks) :
    g.block (s.readRam .data a g.dataLen) r = s.readRam .data (a + g.blockStart r) (g.blockLen r) := by
  rw [Geometry.block_eq, s.take_drop_readRam .data (Geometry.blockEnd_le hr)]

/-! ### The output stream -/

theorem cellAt_map_range {f : Nat → List Byte} {n : Nat} (hr : r < n) : cellAt ((List.range n).map f) r c = (f r).getD c 0#8 := by
  simp [cellAt, hr]

/-- The column and the row of position `c * n + r` of a column-major table. -/
theorem div_mod_of_columnMajor {n : Nat} (hr : r < n) : (c * n + r) / n = c ∧ (c * n + r) % n = r := by
  rw [Nat.add_comm, Nat.add_mul_div_right _ _ (by omega), Nat.div_eq_of_lt hr, Nat.add_mul_mod_self_right, Nat.mod_eq_of_lt hr]
  exact ⟨Nat.zero_add c, rfl⟩

theorem columnMajor_lt {n m : Nat} (hr : r < n) (hc : c < m) : c * n + r < n * m := by
  have h : (c + 1) * n ≤ m * n := Nat.mul_le_mul_right n hc
  rw [Nat.add_one_mul, Nat.mul_comm m] at h
  omega

variable (stream : List Byte)

theorem Geometry.interleave_data {i : Nat} (hi : i < g.dataLen) : (g.interleave stream)[i]? =
    some (cellAt ((List.range g.blocks).map (g.block stream))
      (if g.d1 ≤ i / g.blocks then i % g.blocks + g.b1 else i % g.blocks) (i / g.blocks)) := by
  rw [Geometry.interleave, List.getElem?_append_left (by simpa [Geometry.dataPart] using hi)]
  simp [Geometry.dataPart, hi]

theorem Geometry.interleave_parity {j : Nat} (hj : j < g.parityLen) : (g.interleave stream)[g.dataLen + j]? =
    some (cellAt ((List.range g.blocks).map fun r => rsParity (g.block stream r) g.e) (j % g.blocks) (j / g.blocks)) := by
  rw [Geometry.interleave, List.getElem?_append_right (by simp [Geometry.dataPart])]
  simp [Geometry.dataPart, Geometry.parityPart, hj, Function.comp_def]

/-- Byte `c < d1` of block `r` (43_reed_solomon.md R168). -/
theorem Geometry.interleave_column (h : g.legal = true) (hr : r < g.blocks) (hc : c < g.d1) :
    (g.interleave stream)[c * g.blocks + r]? = some ((g.block stream r).getD c 0#8) := by
  have hlt := columnMajor_lt hr hc
  obtain ⟨hcol, hrow⟩ := div_mod_of_columnMajor (c := c) hr
  rw [Geometry.interleave_data stream (by rw [Geometry.dataLen_eq h]; omega), hcol, hrow, if_neg (by omega), cellAt_map_range hr]

/-- The last byte of group-2 block `r` (43_reed_solomon.md R168). -/
theorem Geometry.interleave_lastColumn (h : g.legal = true) (hlo : g.b1 ≤ r) (hr : r < g.blocks) :
    (g.interleave stream)[g.blocks * g.d1 + (r - g.b1)]? = some ((g.block stream r).getD g.d1 0#8) := by
  have hr' : r < g.b1 + g.b2 := hr
  obtain ⟨hcol, hrow⟩ := div_mod_of_columnMajor (c := g.d1) (show r - g.b1 < g.blocks by omega)
  rw [Geometry.interleave_data stream (by rw [Geometry.dataLen_eq h]; omega), Nat.mul_comm, hcol, hrow, if_pos (Nat.le_refl _),
    Nat.sub_add_cancel hlo, cellAt_map_range hr]

/-- Parity byte `c` of block `r` (43_reed_solomon.md R168). -/
theorem Geometry.interleave_parityColumn (hr : r < g.blocks) (hc : c < g.e) :
    (g.interleave stream)[g.dataLen + (c * g.blocks + r)]? = (rsParity (g.block stream r) g.e)[c]? := by
  obtain ⟨hcol, hrow⟩ := div_mod_of_columnMajor (c := c) hr
  have hlen : c < (rsParity (g.block stream r) g.e).length := by rwa [rsParity_length]
  rw [Geometry.interleave_parity stream (columnMajor_lt hr hc), hcol, hrow, cellAt_map_range hr, List.getD_eq_getElem _ _ hlen,
    List.getElem?_eq_getElem hlen]

end

/-! ### The checks -/

theorem State.rsInterleave_invalidInput {s : State} (h : ¬ s.geometry.legal = true) : s.rsInterleave = .error .invalidInput :=
  if_pos (by simpa using h)

/-- Past the check of the geometry, RS_INTERLEAVE checks its two ranges and writes the output of its snapshot (43_reed_solomon.md R167). -/
theorem State.rsInterleave_eq {s : State} (h : s.geometry.legal = true) : s.rsInterleave =
    if s.params.dataRamBytes < s.arg0.toNat + s.geometry.dataLen ∨
      s.params.dataRamBytes < s.arg2.toNat + (s.geometry.dataLen + s.geometry.parityLen)
    then .error .badAddress
    else .ok (s.writeDataAndResults s.arg2.toNat (s.geometry.interleave (s.readRam .data s.arg0.toNat s.geometry.dataLen))
      { s.res with
        res0 := BitVec.ofNat 32 (s.geometry.dataLen + s.geometry.parityLen)
        res1 := BitVec.ofNat 32 s.geometry.dataLen
        res2 := BitVec.ofNat 32 s.geometry.parityLen }) := by
  unfold State.rsInterleave
  dsimp only
  rw [h, if_neg (by decide)]
  simp only [State.not_dataRangesOk_iff]
  rfl

end Sys2Proof.Machine

open Sys2Proof Sys2Proof.Machine

/-- Settles O42: the geometry is checked first, then the ranges, and an error writes STATUS alone. -/
theorem rsInterleaveErrors : Obligations.RsInterleaveErrors := by
  intro s g hg legal
  rw [← s.geometry_eq] at hg
  subst hg
  refine ⟨fun h => failsWith_of_body ?_, fun h hrange => failsWith_of_body ?_⟩
  · exact State.rsInterleave_invalidInput (mt s.geometry.legal_iff.1 h)
  · rw [Nat.add_assoc] at hrange
    exact (State.rsInterleave_eq (s.geometry.legal_iff.2 h)).trans (if_pos hrange)

/-- Settles O41: each block's byte stands at one position of the column-major output, and each block is a range of the snapshot. -/
theorem rsInterleaveWritesStream : Obligations.RsInterleaveWritesStream := by
  refine ⟨decode_encode (i := .rsInterleave) rfl, usesOnly_of_rows (by decide) (by decide), ?_⟩
  intro s g hg hb1 hd1 he hnone hsome hsum hdata hout
  rw [← s.geometry_eq] at hg
  subst hg
  have hlegal := s.geometry.legal_iff.2 ⟨hb1, hd1, he, hnone, hsome, hsum⟩
  have hbody : body .rsInterleave s = .ok _ := (State.rsInterleave_eq hlegal).trans (if_neg (by omega))
  obtain ⟨t, hexec, hbytes, houtside, hothers, hres, hbufs, htable, hok, hkeeps⟩ := exec_of_body_writeData hbody nofun
  rw [Geometry.interleave_length] at hbytes houtside
  refine ⟨t, hexec, fun r c hr hc => ?column, fun r hlo hr => ?lastColumn, fun r c hr hc => ?parity, houtside, hothers,
    ?_, ?_, ?_, ?_, ?_, ?_, ?_, ?_, hbufs, htable, hok, hkeeps⟩
  case column =>
    have hlt := columnMajor_lt hr hc
    have hbyte := hbytes (c * s.geometry.blocks + r) (by rw [Geometry.dataLen_eq hlegal]; omega)
    have hlen : c < s.geometry.blockLen r := by rw [Geometry.blockLen_eq hlegal hr]; split <;> omega
    rw [Geometry.interleave_column _ hlegal hr hc, Geometry.block_readRam s _ hr, s.readRam_getD .data hlen] at hbyte
    rw [Nat.add_assoc]
    exact Option.some.inj hbyte
  case lastColumn =>
    have hlt : r - s.geometry.b1 < s.geometry.b2 := by rw [Geometry.blocks] at hr; omega
    have hbyte := hbytes (s.geometry.blocks * s.geometry.d1 + (r - s.geometry.b1)) (by rw [Geometry.dataLen_eq hlegal]; omega)
    have hlen : s.geometry.d1 < s.geometry.blockLen r := by rw [Geometry.blockLen_eq hlegal hr, if_neg (by omega)]; omega
    rw [Geometry.interleave_lastColumn _ hlegal hlo hr, Geometry.block_readRam s _ hr, s.readRam_getD .data hlen] at hbyte
    rw [Nat.add_assoc]
    exact Option.some.inj hbyte
  case parity =>
    have hlt : c * s.geometry.blocks + r < s.geometry.parityLen := columnMajor_lt hr hc
    have hbyte := hbytes (s.geometry.dataLen + (c * s.geometry.blocks + r)) (by omega)
    rw [Geometry.interleave_parityColumn _ hr hc, Geometry.block_readRam s _ hr] at hbyte
    rw [Nat.add_assoc, Nat.add_assoc]
    exact hbyte
  all_goals rw [hres]
end

section
/-! SUPPORT. The cursor's path over a legal grid (44_placer.md R192, R196): what one step does there, that a step goes to the next module
of the path's order, and that the trail is the whole path. -/

namespace Sys2Proof.Machine

/-! ### The path -/

/-- The modules of 44_placer.md R196: those outside column 6 and outside rows 0 to 8 of columns 4 and 5. -/
def OnPath (w : Nat) (x y : Int) : Prop :=
  0 ≤ x ∧ x < w ∧ 0 ≤ y ∧ y < w ∧ x ≠ 6 ∧ ¬ ((x = 4 ∨ x = 5) ∧ y ≤ 8)

/-- The right column of the cursor's column pair, with column 6 left out of the count: an even number. -/
def Cursor.pairColumn (c : Cursor) : Int :=
  (if c.x < 6 then c.x + 1 else c.x) + if c.second then 1 else 0

/-- The cursor is at a module of the path, in the phase of its column and in the direction of its column pair. -/
structure Cursor.Travels (w : Nat) (c : Cursor) : Prop where
  onPath : OnPath w c.x c.y
  even : c.pairColumn % 2 = 0
  up_iff : c.up = true ↔ c.pairColumn % 4 = 0

/-- Where the cursor is in its column pair: it grows row by row in the pair's direction, and the right module of a row comes first. -/
def Cursor.place (c : Cursor) : Int :=
  2 * (if c.up then -c.y else c.y) + if c.second then 1 else 0

/-- The order of the path: column pairs from right to left, within a pair by place. -/
def Cursor.Before (c d : Cursor) : Prop :=
  d.pairColumn < c.pairColumn ∨ c.pairColumn = d.pairColumn ∧ c.place < d.place

theorem Cursor.travels_start {w : Nat} (hw : 9 < w) (hmod : w % 4 = 1) : (Cursor.start w).Travels w := by
  constructor <;> simp [Cursor.start, OnPath, Cursor.pairColumn] <;> omega

/-- The module determines the phase and the direction. -/
theorem Cursor.Travels.ext {w : Nat} {c d : Cursor} (hc : c.Travels w) (hd : d.Travels w) (hx : c.x = d.x) (hy : c.y = d.y) :
    c = d := by
  obtain ⟨-, hceven, hcup⟩ := hc
  obtain ⟨-, hdeven, hdup⟩ := hd
  obtain ⟨x, y, cup, csecond⟩ := c
  obtain ⟨x', y', dup, dsecond⟩ := d
  obtain rfl : x = x' := hx
  obtain rfl : y = y' := hy
  have hsecond : csecond = dsecond := by
    cases csecond <;> cases dsecond <;> simp [Cursor.pairColumn] at hceven hdeven ⊢ <;> omega
  subst hsecond
  have hup : cup = dup := Bool.eq_iff_iff.2 (hcup.trans hdup.symm)
  rw [hup]

/-- A module of the path, with the phase and the direction the cursor has there. -/
theorem OnPath.exists_travels {w : Nat} {x y : Int} (h : OnPath w x y) : ∃ c : Cursor, c.Travels w ∧ c.x = x ∧ c.y = y := by
  have hphase : ∃ second, ∀ up, (⟨x, y, up, second⟩ : Cursor).pairColumn % 2 = 0 := by
    obtain heven | hodd := Int.emod_two_eq_zero_or_one (if x < 6 then x + 1 else x)
    · exact ⟨false, fun _ => by simpa [Cursor.pairColumn] using heven⟩
    · exact ⟨true, fun _ => by simp only [Cursor.pairColumn, if_true]; omega⟩
  obtain ⟨second, heven⟩ := hphase
  exact ⟨⟨x, y, decide ((⟨x, y, true, second⟩ : Cursor).pairColumn % 4 = 0), second⟩, ⟨h, heven _, decide_eq_true_iff⟩, rfl, rfl⟩

/-! ### One step -/

/-- A step on the path goes to the left module of the row, to the right module of the next row, or, past the last row of a column pair,
into the next pair, from column 7 over column 6 to row 9 of column 5 (44_placer.md R192). -/
theorem Cursor.Travels.advance_cases {w : Nat} {c : Cursor} (h : c.Travels w) :
    (c.second = false ∧ c.advance w = ⟨c.x - 1, c.y, c.up, true⟩) ∨
    (c.second = true ∧
      ((c.up = true ∧ 0 < c.y ∧ c.advance w = ⟨c.x + 1, c.y - 1, true, false⟩) ∨
       (c.up = false ∧ c.y + 1 < w ∧ c.advance w = ⟨c.x + 1, c.y + 1, false, false⟩))) ∨
    (c.second = true ∧
      ((c.up = true ∧ c.y = 0 ∧ c.x = 7 ∧ c.advance w = ⟨5, 9, false, false⟩) ∨
       (c.up = true ∧ c.y = 0 ∧ c.x ≠ 7 ∧ c.advance w = ⟨c.x - 1, 0, false, false⟩) ∨
       (c.up = false ∧ c.y + 1 = w ∧ c.advance w = ⟨c.x - 1, w - 1, true, false⟩))) := by
  obtain ⟨⟨-, -, hy, hyw, -, -⟩, -, hup⟩ := h
  obtain ⟨x, y, up, second⟩ := c
  dsimp only [Cursor.pairColumn] at *
  have hleft : x + 1 - 2 = x - 1 := by omega
  cases second with
  | false =>
    have hlow : ¬ y < 0 := by omega
    have hhigh : ¬ y = w := by omega
    simp [Cursor.advance, Cursor.move, Cursor.turn, hlow, hhigh]
  | true =>
    cases up with
    | true =>
      by_cases h0 : y = 0
      · by_cases h7 : x = 7
        · simp [Cursor.advance, Cursor.move, Cursor.turn, h0, h7]
        · have hnot : ¬ x - 1 = 6 := by omega
          simp [Cursor.advance, Cursor.move, Cursor.turn, h0, h7, hleft, hnot]
      · have hlow : ¬ y < 1 := by omega
        have hpos : 0 < y := by omega
        simp [Cursor.advance, Cursor.move, Cursor.turn, hlow, hpos]
    | false =>
      have hnot : ¬ x - 1 = 6 := by
        intro h
        obtain rfl : x = 7 := by omega
        simp at hup
      by_cases hlast : y + 1 = w
      · simp [Cursor.advance, Cursor.move, Cursor.turn, hlast, hleft, hnot]
      · have hnext : y + 1 < w := by omega
        simp [Cursor.advance, Cursor.move, Cursor.turn, hlast, hnext]

/-! ### The order -/

/-- The place of the first module of a column pair: pair (5, 4) begins at row 9 (44_placer.md R196). -/
def firstPlace (w : Nat) (column : Int) : Int :=
  if column % 4 = 0 then -2 * (w - 1) else if column = 6 then 18 else 0

/-- The place of the last module of a column pair: row 0 on the way up, the bottom row on the way down. -/
def lastPlace (w : Nat) (column : Int) : Int := if column % 4 = 0 then 1 else 2 * w - 1

theorem Cursor.Travels.place_bounds {w : Nat} {c : Cursor} (h : c.Travels w) :
    2 ≤ c.pairColumn ∧ firstPlace w c.pairColumn ≤ c.place ∧ c.place ≤ lastPlace w c.pairColumn := by
  obtain ⟨⟨hx, hxw, hy, hyw, h6, hblock⟩, heven, hup⟩ := h
  obtain ⟨x, y, up, second⟩ := c
  unfold firstPlace lastPlace Cursor.place
  cases up <;> cases second <;> simp [Cursor.pairColumn] at * <;> omega

/-- A step goes to the next place of its column pair, or from the pair's last place to the first of the next pair, in the other
direction. -/
theorem Cursor.Travels.advance_place {w : Nat} {c : Cursor} (h : c.Travels w) :
    ((c.advance w).pairColumn = c.pairColumn ∧ (c.advance w).up = c.up ∧ (c.advance w).place = c.place + 1) ∨
    ((c.advance w).pairColumn = c.pairColumn - 2 ∧ (c.advance w).up = !c.up ∧ c.place = lastPlace w c.pairColumn ∧
      (c.advance w).place = firstPlace w (c.pairColumn - 2)) := by
  have hstep := h.advance_cases
  obtain ⟨⟨hx, hxw, hy, hyw, h6, hblock⟩, heven, hup⟩ := h
  obtain ⟨x, y, up, second⟩ := c
  obtain ⟨rfl, he⟩ | ⟨rfl, hnext⟩ | ⟨rfl, hturn⟩ := hstep
  · refine .inl ?_
    rw [he]
    simp [Cursor.pairColumn, Cursor.place] at *
    omega
  · refine .inl ?_
    obtain ⟨rfl, hrow, he⟩ | ⟨rfl, hrow, he⟩ := hnext <;> rw [he] <;> simp [Cursor.pairColumn, Cursor.place] at * <;> omega
  · refine .inr ?_
    unfold firstPlace lastPlace
    obtain ⟨rfl, hrow, hcol, he⟩ | ⟨rfl, hrow, hcol, he⟩ | ⟨rfl, hrow, he⟩ := hturn <;> rw [he] <;>
      simp [Cursor.pairColumn, Cursor.place] at * <;> omega

theorem Cursor.Travels.advance_onPath {w : Nat} (hw : 9 < w) (hmod : w % 4 = 1) {c : Cursor} (h : c.Travels w)
    (hin : 0 ≤ (c.advance w).x) : OnPath w (c.advance w).x (c.advance w).y := by
  have hstep := h.advance_cases
  obtain ⟨⟨hx, hxw, hy, hyw, h6, hblock⟩, heven, hup⟩ := h
  obtain ⟨x, y, up, second⟩ := c
  obtain ⟨rfl, he⟩ | ⟨rfl, ⟨rfl, hrow, he⟩ | ⟨rfl, hrow, he⟩⟩ |
    ⟨rfl, ⟨rfl, hrow, hcol, he⟩ | ⟨rfl, hrow, hcol, he⟩ | ⟨rfl, hrow, he⟩⟩ := hstep <;>
    rw [he] at hin ⊢ <;> simp [OnPath, Cursor.pairColumn] at * <;> omega

/-- The cursor stays on the path until it leaves the grid at the left. -/
theorem Cursor.Travels.advance {w : Nat} (hw : 9 < w) (hmod : w % 4 = 1) {c : Cursor} (h : c.Travels w)
    (hin : 0 ≤ (c.advance w).x) : (c.advance w).Travels w := by
  have heven := h.even
  have hpath := h.advance_onPath hw hmod hin
  obtain ⟨hpair, hup, -⟩ | ⟨hpair, hup, -⟩ := h.advance_place
  · exact ⟨hpath, hpair ▸ heven, by rw [hup, hpair, h.up_iff]⟩
  · refine ⟨hpath, by omega, ?_⟩
    rw [hup, hpair, Bool.not_eq_true', ← Bool.not_eq_true, h.up_iff]
    omega

theorem Cursor.Travels.before_advance {w : Nat} {c : Cursor} (h : c.Travels w) : c.Before (c.advance w) := by
  have hstep := h.advance_place
  unfold Cursor.Before
  omega

theorem Cursor.Before.irrefl {c : Cursor} (h : c.Before c) : False := by
  unfold Cursor.Before at h
  omega

theorem Cursor.Before.trans {c d e : Cursor} (hcd : c.Before d) (hde : d.Before e) : c.Before e := by
  unfold Cursor.Before at *
  omega

theorem Cursor.Travels.eq_or_before {w : Nat} {c d : Cursor} (hc : c.Travels w) (hd : d.Travels w) (h : ¬ d.Before c) :
    c = d ∨ c.Before d := by
  refine or_iff_not_imp_right.2 fun hnot => ?_
  have hpair : c.pairColumn = d.pairColumn := by unfold Cursor.Before at h hnot; omega
  have hplace : c.place = d.place := by unfold Cursor.Before at h hnot; omega
  have hup : c.up = d.up := Bool.eq_iff_iff.2 (by rw [hc.up_iff, hd.up_iff, hpair])
  obtain ⟨-, -, -, -, hc6, -⟩ := hc.onPath
  obtain ⟨-, -, -, -, hd6, -⟩ := hd.onPath
  unfold Cursor.place at hplace
  unfold Cursor.pairColumn at hpair
  rw [hup] at hplace
  have hy : c.y = d.y := by split_ifs at hplace <;> omega
  have hx : c.x = d.x := by split_ifs at hplace hpair <;> omega
  exact hc.ext hd hx hy

/-- The path has no module between one and the next, and its last module has none after it. -/
theorem Cursor.Travels.advance_of_before {w : Nat} {c d : Cursor} (hc : c.Travels w) (hd : d.Travels w) (h : c.Before d) :
    0 ≤ (c.advance w).x ∧ ¬ d.Before (c.advance w) := by
  obtain ⟨hpos, hfirst, hlast⟩ := hd.place_bounds
  have hin : (c.advance w).x < 0 → (c.advance w).pairColumn ≤ 1 := by
    unfold Cursor.pairColumn
    omega
  have heven := hc.even
  have heven' := hd.even
  unfold Cursor.Before at *
  obtain ⟨hsame, -, hnext⟩ | ⟨hleft, -, hend, hbegin⟩ := hc.advance_place
  · omega
  · by_cases hpair : d.pairColumn = c.pairColumn - 2
    · rw [hpair] at hfirst
      omega
    · have hother : d.pairColumn ≠ c.pairColumn := by
        intro heq
        rw [heq] at hlast
        omega
      omega

theorem Cursor.Travels.not_before_start {w : Nat} (hw : 9 < w) (hmod : w % 4 = 1) {c : Cursor} (h : c.Travels w) :
    ¬ c.Before (Cursor.start w) := by
  obtain ⟨hpos, hfirst, hlast⟩ := h.place_bounds
  have hcolumn : (Cursor.start w).pairColumn = w - 1 := by
    simp [Cursor.start, Cursor.pairColumn]
    omega
  have hplace : (Cursor.start w).place = firstPlace w (w - 1) := by
    simp [Cursor.start, Cursor.place, firstPlace]
    omega
  have hright : c.pairColumn ≤ w - 1 := by
    obtain ⟨⟨hx, hxw, -⟩, heven, -⟩ := h
    unfold Cursor.pairColumn at heven ⊢
    omega
  unfold Cursor.Before
  rw [hcolumn, hplace]
  by_cases hpair : c.pairColumn = w - 1
  · rw [hpair] at hfirst
    omega
  · omega

/-! ### The trail -/

theorem Cursor.Travels.eq_of_index_eq {w : Nat} {c d : Cursor} (hc : c.Travels w) (hd : d.Travels w) (h : c.index w = d.index w) :
    c = d := by
  obtain ⟨hx, hxw, hy, hyw, -⟩ := hc.onPath
  obtain ⟨hx', hxw', hy', hyw', -⟩ := hd.onPath
  unfold Cursor.index at h
  have hsum : c.x + w * c.y = d.x + w * d.y := by
    have := mul_nonneg hy (Int.natCast_nonneg w)
    have := mul_nonneg hy' (Int.natCast_nonneg w)
    rw [Int.mul_comm w, Int.mul_comm w]
    omega
  obtain ⟨hdiv, hmod⟩ := (Int.ediv_emod_unique (by omega)).2 ⟨hsum, hx, hxw⟩
  obtain ⟨hdiv', hmod'⟩ := (Int.ediv_emod_unique (by omega)).2 ⟨rfl, hx', hxw'⟩
  exact hc.ext hd (hmod.symm.trans hmod') (hdiv.symm.trans hdiv')

theorem Cursor.Travels.inside {w : Nat} (hw : 9 < w) (hmod : w % 4 = 1) {c : Cursor} (h : c.Travels w) : c.Inside w := by
  obtain ⟨⟨hx, hxw, hy, hyw, -⟩, heven, -⟩ := h
  refine ⟨?_, hyw⟩
  unfold Cursor.pairColumn at heven
  split_ifs at heven ⊢ <;> omega

theorem trailFrom_of_out {w : Nat} (n : Nat) {c : Cursor} (h : c.x < 0) : trailFrom w n c = [] := by
  cases n with
  | zero => rfl
  | succ n => exact if_pos h

theorem trailFrom_succ_of_in {w : Nat} (n : Nat) {c : Cursor} (h : ¬ c.x < 0) :
    trailFrom w (n + 1) c = c :: trailFrom w n (c.advance w) := if_neg h

section
variable {w n : Nat} {c d : Cursor} (hw : 9 < w) (hmod : w % 4 = 1) (hc : 0 ≤ c.x → c.Travels w)
include hw hmod hc

/-- The trail stays on the path, and what comes before its first module comes before them all. -/
theorem trailFrom_travels (hd : d ∈ trailFrom w n c) : d.Travels w ∧ ∀ e : Cursor, e.Before c → e.Before d := by
  induction n generalizing c with
  | zero => cases hd
  | succ n ih =>
    by_cases hx : c.x < 0
    · rw [trailFrom_of_out _ hx] at hd
      cases hd
    · have hct := hc (Int.not_lt.1 hx)
      rw [trailFrom_succ_of_in n hx] at hd
      cases hd with
      | head => exact ⟨hct, fun _ he => he⟩
      | tail _ hd =>
        obtain ⟨ht, hafter⟩ := ih (hct.advance hw hmod) hd
        exact ⟨ht, fun e he => hafter e (he.trans hct.before_advance)⟩

theorem trailFrom_nodup : (trailFrom w n c).Nodup := by
  induction n generalizing c with
  | zero => exact List.nodup_nil
  | succ n ih =>
    by_cases hx : c.x < 0
    · rw [trailFrom_of_out _ hx]
      exact List.nodup_nil
    · have hct := hc (Int.not_lt.1 hx)
      rw [trailFrom_succ_of_in n hx]
      refine List.nodup_cons.2 ⟨fun hmem => ?_, ih (hct.advance hw hmod)⟩
      exact ((trailFrom_travels hw hmod (hct.advance hw hmod) hmem).2 c hct.before_advance).irrefl

/-- A trail that leaves the grid within its passes has every module of the path from its first on: by the order, none lies between
two of its steps. -/
theorem mem_trailFrom (hin : 0 ≤ c.x) (hlen : (trailFrom w n c).length < n) (hd : d.Travels w) (hle : ¬ d.Before c) :
    d ∈ trailFrom w n c := by
  induction n generalizing c with
  | zero => omega
  | succ n ih =>
    rw [trailFrom_succ_of_in n (Int.not_lt.2 hin)] at hlen ⊢
    obtain rfl | hbefore := (hc hin).eq_or_before hd hle
    · exact List.mem_cons_self
    · obtain ⟨hnext, hle⟩ := (hc hin).advance_of_before hd hbefore
      exact List.mem_cons_of_mem _ (ih ((hc hin).advance hw hmod) hnext (Nat.lt_of_succ_lt_succ hlen) hle)

theorem trailFrom_index_nodup : ((trailFrom w n c).map (Cursor.index w)).Nodup := by
  refine List.Nodup.map_on (fun d hd e he h => ?_) (trailFrom_nodup hw hmod hc)
  exact (trailFrom_travels hw hmod hc hd).1.eq_of_index_eq (trailFrom_travels hw hmod hc he).1 h

theorem trailFrom_length_le : (trailFrom w n c).length ≤ w * w := by
  have hsub : (trailFrom w n c).map (Cursor.index w) ⊆ List.range (w * w) := by
    intro i hi
    obtain ⟨d, hd, rfl⟩ := List.mem_map.1 hi
    exact List.mem_range.2 (Cursor.index_lt (by omega) ((trailFrom_travels hw hmod hc hd).1.inside hw hmod))
  have hle := ((trailFrom_index_nodup hw hmod hc).subperm hsub).length_le
  rwa [List.length_map, List.length_range] at hle

end

/-- No module comes twice, so the passes of `trail` are enough (44_placer.md R197, log entry 9). -/
theorem trail_leaves {w : Nat} (hw : 9 < w) (hmod : w % 4 = 1) : (trail w).length < 2 * w * w := by
  have hle : (trail w).length ≤ w * w := trailFrom_length_le hw hmod fun _ => Cursor.travels_start hw hmod
  have hpos : 0 < w * w := Nat.mul_pos (by omega) (by omega)
  rw [Nat.mul_assoc]
  omega

end Sys2Proof.Machine

open Sys2Proof Sys2Proof.Machine

/-- Settles O43: each step goes to the next module of the path's order, so the trail has no module twice and leaves none out. -/
theorem trailVisitsEachModuleOnce : Obligations.TrailVisitsEachModuleOnce := by
  intro v _ _
  have hw : 9 < symbolWidth v := by unfold symbolWidth; omega
  have hmod : symbolWidth v % 4 = 1 := by unfold symbolWidth; omega
  have hstart := Cursor.travels_start hw hmod
  have htravels : ∀ c ∈ trail (symbolWidth v), c.Travels (symbolWidth v) := fun c hc =>
    (trailFrom_travels hw hmod (fun _ => hstart) hc).1
  refine ⟨?nodup, fun x y => ⟨?onPath, ?reached⟩⟩
  case nodup =>
    refine List.Nodup.map_on (fun c hc d hd h => ?_) (trailFrom_nodup hw hmod fun _ => hstart)
    obtain ⟨hx, hy⟩ := Prod.ext_iff.1 h
    exact (htravels c hc).ext (htravels d hd) hx hy
  case onPath =>
    rintro ⟨c, hc, rfl, rfl⟩
    exact (htravels c hc).onPath
  case reached =>
    intro hpath
    obtain ⟨c, hc, hx, hy⟩ := OnPath.exists_travels hpath
    exact ⟨c, mem_trailFrom hw hmod (fun _ => hstart) hstart.onPath.1 (trail_leaves hw hmod) hc (hc.not_before_start hw hmod), hx, hy⟩
end

section
/-! SUPPORT. FILL (44_placer.md R193 to R197): the skip loop searches the trail, so the loop over the bits takes the trail's data modules
in order and fails exactly when they are too few. -/

namespace Sys2Proof.Machine

/-! ### The search along the trail -/

/-- The skip loop takes the first data module of the trail from its cursor on (44_placer.md R193). -/
theorem skipReserved_eq_find (w : Nat) (reserved : Nat → Bool) (n : Nat) (c : Cursor) :
    skipReserved w reserved n c = (trailFrom w n c).find? fun d => !reserved (d.index w) := by
  induction n generalizing c with
  | zero => rfl
  | succ n ih =>
    unfold skipReserved trailFrom
    split
    · rfl
    · cases hr : reserved (c.index w) <;> simp [hr, ih]

/-- A trail that has left the grid within its passes has no more positions with more of them. -/
theorem trailFrom_succ_of_leaves {w n : Nat} {c : Cursor} (h : (trailFrom w n c).length < n) :
    trailFrom w (n + 1) c = trailFrom w n c := by
  induction n generalizing c with
  | zero => cases h
  | succ n ih =>
    by_cases hx : c.x < 0
    · rw [trailFrom_of_out _ hx, trailFrom_of_out _ hx]
    · rw [trailFrom_succ_of_in n hx] at h ⊢
      rw [trailFrom_succ_of_in _ hx, ih (Nat.lt_of_succ_lt_succ h)]

/-- The data modules of the trail from a cursor on. -/
def freeFrom (w : Nat) (reserved : Nat → Bool) (n : Nat) (c : Cursor) : List Cursor :=
  (trailFrom w n c).filter fun d => !reserved (d.index w)

/-- Behind a data module the search goes on with the data modules that follow it. -/
theorem freeFrom_advance {w n : Nat} {reserved : Nat → Bool} {c p : Cursor} {rest : List Cursor}
    (hlen : (trailFrom w n c).length < n) (h : freeFrom w reserved n c = p :: rest) :
    (trailFrom w n (p.advance w)).length < n ∧ freeFrom w reserved n (p.advance w) = rest := by
  induction n generalizing c with
  | zero => cases hlen
  | succ n ih =>
    unfold freeFrom at h ⊢
    by_cases hx : c.x < 0
    · rw [trailFrom_of_out _ hx] at h
      cases h
    rw [trailFrom_succ_of_in n hx] at h hlen
    have hlen := Nat.lt_of_succ_lt_succ hlen
    cases hr : reserved (c.index w) with
    | false =>
      obtain ⟨rfl, hrest⟩ : c = p ∧ _ = rest := by simpa [hr] using h
      rw [trailFrom_succ_of_leaves hlen]
      exact ⟨hlen.trans (Nat.lt_succ_self n), hrest⟩
    | true =>
      obtain ⟨hlen', hrest⟩ := ih hlen (by simpa [hr, freeFrom] using h)
      rw [trailFrom_succ_of_leaves hlen']
      exact ⟨hlen'.trans (Nat.lt_succ_self n), hrest⟩

/-- The bytes FILL writes for its bits from `t` on: to each of the data modules in order its bit (44_placer.md R194). -/
def cellsFrom (bit : Nat → Bool) (t : Nat) (free : List Nat) : List (Nat × Byte) :=
  (free.zipIdx t).map fun (i, j) => (i, placedByte (bit j))

theorem cellsFrom_map_fst (bit : Nat → Bool) (t : Nat) (free : List Nat) : (cellsFrom bit t free).map (·.1) = free := by
  simp [cellsFrom, Function.comp_def]

/-- The loop of FILL (44_placer.md R195) takes its positions from the data modules of the trail, or finds too few of them. -/
theorem placeFrom_eq {w n : Nat} {reserved bit : Nat → Bool} (hn : n = 2 * w * w + 1) (left t : Nat) (c : Cursor) {d : Cursor}
    (hd : d = if t == 0 then c else c.advance w) (hlen : (trailFrom w n d).length < n) :
    placeFrom w reserved bit left t c =
      if left ≤ (freeFrom w reserved n d).length
      then some (cellsFrom bit t (((freeFrom w reserved n d).map (Cursor.index w)).take left))
      else none := by
  induction left generalizing t c d with
  | zero => rfl
  | succ left ih =>
    have hfind : nextFree w reserved (t == 0) c = (freeFrom w reserved n d).head? := by
      rw [nextFree, ← hd, ← hn, skipReserved_eq_find, freeFrom, List.head?_filter]
    unfold placeFrom
    rw [hfind]
    cases hfree : freeFrom w reserved n d with
    | nil => rfl
    | cons p rest =>
      obtain ⟨hlen', hrest⟩ := freeFrom_advance hlen hfree
      have hnext := ih (t + 1) p (d := p.advance w) rfl hlen'
      rw [hrest] at hnext
      simp only [List.head?_cons, hnext, List.length_cons, Nat.add_le_add_iff_right]
      by_cases hle : left ≤ rest.length
      · rw [if_pos hle, if_pos hle]
        rfl
      · rw [if_neg hle, if_neg hle]

/-! ### The command -/

theorem State.gridWidth_legal (s : State) : 9 < s.gridWidth ∧ s.gridWidth % 4 = 1 := by
  unfold State.gridWidth symbolWidth
  omega

theorem State.freeModules_nodup (s : State) : s.freeModules.Nodup := by
  obtain ⟨hw, hmod⟩ := s.gridWidth_legal
  exact (trailFrom_index_nodup hw hmod fun _ => Cursor.travels_start hw hmod).filter _

/-- The number of bits FILL places (44_placer.md R194). -/
def State.streamLength (s : State) : Nat := 8 * s.arg1.toNat + s.arg2.toNat

/-- The bytes FILL writes (44_placer.md R195). -/
def State.placedCells (s : State) : List (Nat × Byte) :=
  cellsFrom (streamBit (s.readRam .data s.arg0.toNat s.arg1.toNat)) 0 (s.freeModules.take s.streamLength)

theorem State.placeFrom_start (s : State) :
    placeFrom s.gridWidth (fun i => isReserved (s.ramByte .frame i)) (streamBit (s.readRam .data s.arg0.toNat s.arg1.toNat))
      s.streamLength 0 (Cursor.start s.gridWidth) =
    if s.streamLength ≤ s.freeModules.length then some s.placedCells else none := by
  obtain ⟨hw, hmod⟩ := s.gridWidth_legal
  have hleaves := trail_leaves hw hmod
  have htrail : trailFrom s.gridWidth (2 * s.gridWidth * s.gridWidth + 1) (Cursor.start s.gridWidth) = trail s.gridWidth :=
    trailFrom_succ_of_leaves hleaves
  have hfree : (freeFrom s.gridWidth (fun i => isReserved (s.ramByte .frame i)) (2 * s.gridWidth * s.gridWidth + 1)
      (Cursor.start s.gridWidth)).map (Cursor.index s.gridWidth) = s.freeModules := by
    rw [freeFrom, htrail, State.freeModules, List.filter_map]
    rfl
  rw [placeFrom_eq (d := Cursor.start s.gridWidth) rfl _ _ _ rfl (by rw [htrail]; omega),
    ← List.length_map (f := Cursor.index s.gridWidth), hfree, State.placedCells]

theorem State.fill_invalidInput {s : State} (h : s.version.toNat < 1 ∨ 40 < s.version.toNat) : s.fill = .error .invalidInput := by
  refine if_pos ?_
  simp only [State.gridVersionOk, Bool.not_eq_true', Bool.and_eq_false_iff, decide_eq_false_iff_not]
  omega

/-- Past the check of VERSION, FILL checks its range and then places its bits, if the trail has the data modules (44_placer.md R195). -/
theorem State.fill_eq {s : State} (hlo : 1 ≤ s.version.toNat) (hhi : s.version.toNat ≤ 40) :
    s.fill =
      if s.params.dataRamBytes < s.arg0.toNat + s.arg1.toNat then .error .badAddress
      else if s.streamLength ≤ s.freeModules.length
      then .ok ((s.writeRamEach .frame s.placedCells).setRes0 s.streamLength)
      else .error .frameOverflow := by
  have hversion : s.gridVersionOk = true := by simp [State.gridVersionOk, hlo, hhi]
  unfold State.fill
  dsimp only
  rw [hversion, ← State.streamLength, s.placeFrom_start, if_neg (by decide)]
  simp only [State.dataRangeOk, Bool.not_eq_true', decide_eq_false_iff_not, Nat.not_le]
  split_ifs <;> rfl

/-- A bit of the stream: of a codeword, most significant bit first, or a remainder bit 0 (44_placer.md R194). -/
theorem State.streamBit_readRam (s : State) (a n t : Nat) :
    streamBit (s.readRam .data a n) t = (decide (t < 8 * n) && (s.ramByte .data (a + t / 8)).getLsbD (7 - t % 8)) := by
  unfold streamBit
  by_cases ht : t < 8 * n
  · rw [s.readRam_getD .data (by omega : t / 8 < n), decide_eq_true ht, Bool.true_and]
  · rw [List.getD_eq_default _ _ (by simp; omega), decide_eq_false ht, BitVec.getLsbD_zero, Bool.false_and]

theorem mem_cellsFrom {bit : Nat → Bool} {free : List Nat} {i j : Nat} (h : free[j]? = some i) :
    (i, placedByte (bit j)) ∈ cellsFrom bit 0 free :=
  List.mem_map.2 ⟨(i, j), List.mem_zipIdx_iff_getElem?.2 h, rfl⟩

end Sys2Proof.Machine

open Sys2Proof Sys2Proof.Machine

/-- Settles O45: the checks come in this order, and the loop fails exactly when the trail has too few data modules. -/
theorem fillErrors : Obligations.FillErrors := by
  intro s
  refine ⟨fun h => failsWith_of_body (State.fill_invalidInput h), fun hlo hhi =>
    ⟨fun hrange => failsWith_of_body ((State.fill_eq hlo hhi).trans (if_pos hrange)), fun hrange => ⟨fun hfail => ?_, fun hfew => ?_⟩⟩⟩
  · refine Nat.not_le.1 fun hle => ?_
    have hbody : body .fill s = .ok _ := (State.fill_eq hlo hhi).trans ((if_neg (Nat.not_lt.2 hrange)).trans (if_pos hle))
    obtain ⟨-, hstatus⟩ := (writes_of_body_ok hbody nofun).succeeded
    have hsame := Host.Outcome.next.inj ((exec_of_body_ok hbody).symm.trans hfail)
    rw [hsame] at hstatus
    exact nomatch congrArg Status.err hstatus
  · exact failsWith_of_body ((State.fill_eq hlo hhi).trans ((if_neg (Nat.not_lt.2 hrange)).trans (if_neg (Nat.not_le.2 hfew))))

/-- Settles O44: the loop takes the data modules of the trail in order, and no two of them are one byte. -/
theorem fillPlacesStreamAlongTrail : Obligations.FillPlacesStreamAlongTrail := by
  refine ⟨decode_encode (i := .fill) rfl, usesOnly_of_rows (by decide) (by decide), fun s hlo hhi hrange hroom => ?_⟩
  have hbody : body .fill s = .ok _ := (State.fill_eq hlo hhi).trans ((if_neg (Nat.not_lt.2 hrange)).trans (if_pos hroom))
  have hw := writes_of_body_ok hbody nofun
  refine ⟨_, exec_of_body_ok hbody, fun j hj i hi => ?placed, fun i hi => ?kept, fun q hq x => ?others, by simp [State.streamLength],
    by simp [KeepsRes1to7], fun b => by simp, ⟨fun j => by simp, by simp⟩, hw.succeeded, hw.completeOk_keepsSettings⟩
  case placed =>
    have hmem : (i, placedByte _) ∈ s.placedCells := mem_cellsFrom ((List.getElem?_take_of_lt hj).trans hi)
    have hnodup : (s.placedCells.map (·.1)).Nodup := by
      rw [State.placedCells, cellsFrom_map_fst]
      exact s.freeModules_nodup.take
    rw [State.completeOk_ramByte, State.setRes0_ramByte, State.ramByte_writeRamEach_of_mem _ _ _ _ _ hnodup hmem, placedByte,
      State.streamBit_readRam]
    simp only [Bool.and_eq_true, decide_eq_true_eq]
  case kept =>
    rw [State.completeOk_ramByte, State.setRes0_ramByte, State.ramByte_writeRamEach_of_not_mem]
    rintro c hc rfl
    refine hi ?_
    rw [← cellsFrom_map_fst _ 0 (s.freeModules.take _)]
    exact List.mem_map_of_mem hc
  case others => rw [State.completeOk_ramByte, State.setRes0_ramByte, State.ramByte_writeRamEach_other _ _ _ _ _ hq]
end

section
/-! SUPPORT. The modules of a candidate (45_mask.md R210 to R217): the 30 positions of the format word are distinct, so looking one up
finds its bit, and every other module is the frame's under the mask. -/

namespace Sys2Proof.Machine

/-! ### The positions of the format word -/

/-- The 30 positions of the format word, the first copy before the second (45_mask.md R215). -/
def formatPositions (w : Nat) : List (Nat × Nat) := (List.range 15).map formatFirst ++ (List.range 15).map (formatSecond w)

theorem formatModules_map_fst (w : Nat) (f : BitVec 15) : (formatModules w f).map Prod.fst = formatPositions w := by
  simp [formatModules, formatPositions, Function.comp_def]

/-- The first copy lies in the corner of the upper left finder. -/
theorem formatFirst_le : ∀ t < 15, (formatFirst t).1 ≤ 8 ∧ (formatFirst t).2 ≤ 8 := by decide

/-- The second copy lies beyond that corner. -/
theorem formatSecond_gt {w t : Nat} (hw : 21 ≤ w) (ht : t < 15) : 8 < (formatSecond w t).1 ∨ 8 < (formatSecond w t).2 := by
  unfold formatSecond
  split
  · exact .inl (by dsimp only; omega)
  · exact .inr (by dsimp only; omega)

theorem formatSecond_injOn {w t u : Nat} (hw : 21 ≤ w) (ht : t < 15) (hu : u < 15) (h : formatSecond w t = formatSecond w u) :
    t = u := by
  unfold formatSecond at h
  split at h <;> split at h <;> simp only [Prod.mk.injEq] at h <;> omega

theorem formatPositions_nodup {w : Nat} (hw : 21 ≤ w) : (formatPositions w).Nodup := by
  refine List.Nodup.append (by decide) (List.Nodup.map_on (fun t ht u hu h => ?_) List.nodup_range) fun p hfirst hsecond => ?_
  · exact formatSecond_injOn hw (List.mem_range.1 ht) (List.mem_range.1 hu) h
  · obtain ⟨t, ht, rfl⟩ := List.mem_map.1 hfirst
    obtain ⟨u, hu, heq⟩ := List.mem_map.1 hsecond
    have hle := formatFirst_le t (List.mem_range.1 ht)
    have hgt := formatSecond_gt hw (List.mem_range.1 hu)
    rw [heq] at hgt
    omega

/-! ### The modules of a candidate -/

/-- Looking up a key that stands once in a list of pairs. -/
theorem lookup_eq_some_of_mem {l : List ((Nat × Nat) × Byte)} {p : Nat × Nat} {v : Byte} (hd : (l.map Prod.fst).Nodup)
    (h : (p, v) ∈ l) : l.lookup p = some v := by
  obtain ⟨before, after, rfl⟩ := List.append_of_mem h
  refine List.lookup_eq_some_iff.2 ⟨before, after, rfl, fun q hq => bne_iff_ne.2 fun heq => ?_⟩
  rw [List.map_append, List.nodup_append] at hd
  obtain ⟨-, -, hdisjoint⟩ := hd
  exact hdisjoint q.1 (List.mem_map_of_mem hq) p (by simp) heq.symm

section
variable {w : Nat} {frame : Nat → Byte} {l : BitVec 2} {k : Fin 8} {x y : Nat}

/-- A format position holds its bit of the ROM word (45_mask.md R215, R217). -/
theorem candidateByte_of_format {t : Nat} (hw : 21 ≤ w) (ht : t < 15) (h : formatFirst t = (x, y) ∨ formatSecond w t = (x, y)) :
    candidateByte w frame l k x y = formatByte ((romWord l k).getLsbD t) := by
  have hmem : ((x, y), formatByte ((romWord l k).getLsbD t)) ∈ formatModules w (romWord l k) := by
    rcases h with h | h
    · exact List.mem_append_left _ (List.mem_map.2 ⟨t, List.mem_range.2 ht, by rw [h]⟩)
    · exact List.mem_append_right _ (List.mem_map.2 ⟨t, List.mem_range.2 ht, by rw [h]⟩)
  have hd : ((formatModules w (romWord l k)).map Prod.fst).Nodup := by
    rw [formatModules_map_fst]
    exact formatPositions_nodup hw
  rw [candidateByte, lookup_eq_some_of_mem hd hmem, Option.getD_some]

/-- Any other position holds the frame's module under the mask (45_mask.md R211, R217). -/
theorem candidateByte_of_not_format (h : (x, y) ∉ formatPositions w) :
    candidateByte w frame l k x y = maskedByte k x y (frame (y * w + x)) := by
  have hnone : (formatModules w (romWord l k)).lookup (x, y) = none := by
    refine List.lookup_eq_none_iff.2 fun p hp => bne_iff_ne.2 fun heq => h ?_
    rw [heq, ← formatModules_map_fst w (romWord l k)]
    exact List.mem_map_of_mem hp
  rw [candidateByte, hnone, Option.getD_none]

end

/-- The eight predicates of 45_mask.md R210 in the order of their numbers. -/
theorem getElem?_maskPreds (k : Fin 8) (x y : Nat) :
    ([(x + y) % 2, y % 2, x % 3, (x + y) % 3, (y / 2 + x / 3) % 2, (x * y) % 2 + (x * y) % 3, ((x * y) % 2 + (x * y) % 3) % 2,
      ((x * y) % 3 + (x + y) % 2) % 2] : List Nat)[k.val]? = some (maskPred k x y) := by
  fin_cases k <;> rfl

end Sys2Proof.Machine

open Sys2Proof Sys2Proof.Machine

/-- Settles O46: the listed positions are those of the format modules; looking one up finds its bit, and nothing is found elsewhere. -/
theorem candidateModules : Obligations.CandidateModules := by
  intro v frame l k hlo hhi w first second
  have hw : 21 ≤ w := by omega
  have hfirst : first = (List.range 15).map formatFirst := by decide
  have hpositions : first ++ second = formatPositions w := by rw [hfirst]; rfl
  refine ⟨hpositions ▸ formatPositions_nodup hw, fun t x y ht => ?format, fun x y _ _ hxy => ?elsewhere⟩
  case format =>
    have hlt : t < 15 := by
      by_contra hge
      simp [first, second, Nat.not_lt.1 hge] at ht
    refine candidateByte_of_format hw hlt ?_
    simpa [hfirst, second, hlt, formatSecond] using ht
  case elsewhere =>
    rw [candidateByte_of_not_format (hpositions ▸ hxy), maskedByte, getElem?_maskPreds]
    cases (frame (y * w + x)).getLsbD 7 <;> simp

/-- Settles O47: the format computation evaluated on the 32 entries of the ROM. -/
theorem formatRomHoldsBchWords : Obligations.FormatRomHoldsBchWords := by
  unfold Obligations.FormatRomHoldsBchWords
  decide
end

section
/-! SUPPORT. The commands of the mask engine (45_mask.md R224, R228 to R232): the selection loop keeps the first lowest score, a written
grid is read back module by module, and past the check of VERSION a command's writes are named. -/

namespace Sys2Proof.Machine

/-! ### Selection -/

/-- One step of the selection loop: a strictly lower score replaces the running best (45_mask.md R224). -/
def keepBest (score : Fin 8 → Nat) (best k : Fin 8) : Fin 8 := if score k < score best then k else best

/-- The running best after the candidates of a rising list: the lowest score, and the first among equals. -/
theorem foldl_keepBest_lowest_first (score : Fin 8 → Nat) (l : List (Fin 8)) (b : Fin 8) (hl : (b :: l).Pairwise (· < ·)) :
    ∀ k ∈ b :: l, score (l.foldl (keepBest score) b) ≤ score k ∧
      (score k = score (l.foldl (keepBest score) b) → l.foldl (keepBest score) b ≤ k) := by
  induction l generalizing b with
  | nil => simp
  | cons a l ih =>
    simp only [List.pairwise_cons, List.forall_mem_cons] at hl ih ⊢
    obtain ⟨⟨hba, hbl⟩, hal, hl⟩ := hl
    rw [List.foldl_cons, keepBest]
    split
    · next hlt =>
      obtain ⟨⟨hle, hfirst⟩, hrest⟩ := ih a ⟨hal, hl⟩
      exact ⟨⟨by omega, fun heq => by omega⟩, ⟨hle, hfirst⟩, hrest⟩
    · next hge =>
      obtain ⟨⟨hle, hfirst⟩, hrest⟩ := ih b ⟨hbl, hl⟩
      exact ⟨⟨hle, hfirst⟩, ⟨by omega, fun heq => Fin.le_trans (hfirst (by omega)) (Fin.le_of_lt hba)⟩, hrest⟩

theorem selectBest_lowest_first (score : Fin 8 → Nat) (k : Fin 8) :
    score (selectBest score) ≤ score k ∧ (score k = score (selectBest score) → selectBest score ≤ k) :=
  foldl_keepBest_lowest_first score [1, 2, 3, 4, 5, 6, 7] 0 (by decide) k (by revert k; decide)

/-! ### Grids in a RAM -/

/-- Rows of equal width one after the other (20_memory.md R58). -/
theorem flatten_rows (f : Nat → Nat → Byte) (w n : Nat) : ((List.range n).map fun y => (List.range w).map fun x => f x y).flatten =
    (List.range (n * w)).map fun i => f (i % w) (i / w) := by
  induction n with
  | zero => simp
  | succ n ih =>
    rw [List.range_succ, List.map_append, List.flatten_append, ih, Nat.add_one_mul, List.range_add, List.map_append, List.map_map]
    congr 1
    rw [List.map_singleton, List.flatten_singleton]
    refine List.map_congr_left fun x hx => ?_
    obtain ⟨hdiv, hmod⟩ := div_mod_of_columnMajor (c := n) (List.mem_range.1 hx)
    rw [Function.comp_apply, hdiv, hmod]

section
variable (s : State) (r : Ram) (g : Grid)

theorem State.ramByte_writeGrid_inside (f : Nat → Nat → Byte) {w x y : Nat} (hx : x < w) (hy : y < w) :
    (s.writeGrid r (Grid.ofFn w f)).ramByte r (y * w + x) = f x y := by
  obtain ⟨hdiv, hmod⟩ := div_mod_of_columnMajor (c := y) hx
  simp [State.writeGrid, State.ramByte_writeRam_same, Grid.ofFn, flatten_rows, columnMajor_lt hx hy, hdiv, hmod]

theorem State.ramByte_writeGrid_outside {a : Nat} (ha : g.flatten.length ≤ a) : (s.writeGrid r g).ramByte r a = s.ramByte r a := by
  rw [State.writeGrid, State.ramByte_writeRam_same, dif_neg (by omega)]

theorem State.ramByte_writeGrid_other {q : Ram} (h : q ≠ r) (a : Nat) : (s.writeGrid r g).ramByte q a = s.ramByte q a :=
  State.ramByte_writeRam_other _ _ _ _ _ _ h

/-- Writing a grid where it stands already changes no byte. -/
theorem State.ramByte_writeGrid_again {u : State} {r : Ram} {g : Grid} (h : ∀ a, s.ramByte r a = (u.writeGrid r g).ramByte r a)
    (a : Nat) : (s.writeGrid r g).ramByte r a = s.ramByte r a := by
  rw [State.writeGrid, State.ramByte_writeRam_same]
  split
  · next hin => rw [h, State.writeGrid, State.ramByte_writeRam_same, dif_pos hin]
  · rfl

@[simp] theorem State.writeGrid_res : (s.writeGrid r g).res = s.res := by simp [State.writeGrid]
@[simp] theorem State.writeGrid_bsb (b : Buf) : (s.writeGrid r g).bsb b = s.bsb b := by simp [State.writeGrid]
@[simp] theorem State.writeGrid_segEntry (j : Nat) : (s.writeGrid r g).segEntry j = s.segEntry j := by simp [State.writeGrid]
@[simp] theorem State.writeGrid_segCount : (s.writeGrid r g).segCount = s.segCount := by simp [State.writeGrid]

end

/-! ### The commands -/

theorem State.setScore_eq (s : State) (k : Fin 8) (d : Demerits) :
    s.setScore k d = s.setRes0to6 d.total k.val d.n1 d.n2 d.n3 d.n4 d.dark := rfl

theorem State.gridVersionOk_iff (s : State) : s.gridVersionOk = true ↔ 1 ≤ s.version.toNat ∧ s.version.toNat ≤ 40 := by
  simp [State.gridVersionOk]

theorem State.bestMask_lowest_first (s : State) (k : Fin 8) :
    (s.candidateDemerits s.bestMask).total ≤ (s.candidateDemerits k).total ∧
      ((s.candidateDemerits k).total = (s.candidateDemerits s.bestMask).total → s.bestMask ≤ k) :=
  selectBest_lowest_first (fun j => (s.candidateDemerits j).total) k

section
variable {s : State}

theorem State.not_gridVersionOk (h : s.version.toNat < 1 ∨ 40 < s.version.toNat) : (!s.gridVersionOk) = true := by
  simp only [Bool.not_eq_true', Bool.eq_false_iff, ne_eq, State.gridVersionOk_iff]
  omega

theorem body_maskEval {k : Fin 8} (hlo : 1 ≤ s.version.toNat) (hhi : s.version.toNat ≤ 40) :
    body (.maskEval k) s = .ok ((s.writeGrid .cand (s.candidate k)).setScore k (s.candidateDemerits k)) :=
  if_neg (by simp [s.gridVersionOk_iff.2 ⟨hlo, hhi⟩])

theorem body_maskSelect (hlo : 1 ≤ s.version.toNat) (hhi : s.version.toNat ≤ 40) :
    body .maskSelect s = .ok (((s.writeGrid .sym (s.candidate s.bestMask)).writeGrid .cand (s.candidate 7)).setScore
      s.bestMask (s.candidateDemerits s.bestMask)) :=
  if_neg (by simp [s.gridVersionOk_iff.2 ⟨hlo, hhi⟩])

theorem body_maskForce {k : Fin 8} (hlo : 1 ≤ s.version.toNat) (hhi : s.version.toNat ≤ 40) :
    body (.maskForce k) s = .ok ((s.writeGrid .sym (s.candidate k)).setRes0to6 0 k.val 0 0 0 0 0) :=
  if_neg (by simp [s.gridVersionOk_iff.2 ⟨hlo, hhi⟩])

/-- A command whose only writes are candidate `k` in one RAM and RES0 to RES6 leaves everything else as it was (00_scope.md R12). -/
theorem exec_of_body_writeCandidate {i : Instr} {r : Ram} {k : Fin 8} {v0 v1 v2 v3 v4 v5 v6 : Nat}
    (h : body i s = .ok ((s.writeGrid r (s.candidate k)).setRes0to6 v0 v1 v2 v3 v4 v5 v6)) (hi : i ≠ .softReset) :
    ∃ t, exec i s = .next t ∧
      (∀ x y, x < s.gridWidth → y < s.gridWidth → t.ramByte r (y * s.gridWidth + x) =
        candidateByte s.gridWidth (s.ramByte .frame) s.level k x y) ∧
      KeepsOutside r 0 (s.gridWidth * s.gridWidth) s t ∧ KeepsOtherRams r s t ∧
      t.res = ⟨BitVec.ofNat 32 v0, BitVec.ofNat 32 v1, BitVec.ofNat 32 v2, BitVec.ofNat 32 v3, BitVec.ofNat 32 v4, BitVec.ofNat 32 v5,
        BitVec.ofNat 32 v6, s.res.res7⟩ ∧
      KeepsBuffers s t ∧ KeepsTable s t ∧ Succeeded s t ∧ KeepsSettings s t := by
  have hw := writes_of_body_ok h hi
  refine ⟨_, exec_of_body_ok h, fun x y hx hy => ?inside, fun a ha => ?outside, fun q hq a => ?others, by simp, fun b => by simp,
    ⟨fun j => by simp, by simp⟩, hw.succeeded, hw.completeOk_keepsSettings⟩
  all_goals rw [State.completeOk_ramByte, State.setRes0to6_ramByte]
  case inside => exact State.ramByte_writeGrid_inside _ _ _ hx hy
  case outside => exact State.ramByte_writeGrid_outside _ _ _ (by rw [State.candidate_flatten_length]; omega)
  case others => exact State.ramByte_writeGrid_other _ _ _ hq a

end

/-- A candidate depends on VERSION, LEVEL and FRAME_RAM alone (45_mask.md R217). -/
theorem State.candidate_congr {s t : State} (hv : t.version = s.version) (hl : t.level = s.level) (hf : KeepsRam .frame s t) (k : Fin 8) :
    t.candidate k = s.candidate k := by
  have hframe : t.ramByte .frame = s.ramByte .frame := funext hf
  rw [State.candidate, State.candidate, State.gridWidth, State.gridWidth, hv, hl, hframe]

end Sys2Proof.Machine

open Sys2Proof Sys2Proof.Machine

/-- Settles O48: the eight masks are scored in rising order, and only a strictly lower score replaces the running best. -/
theorem selectionIsLowestFirst : Obligations.SelectionIsLowestFirst := selectBest_lowest_first

/-- Settles O50: VERSION is checked first; the writes are one candidate in CAND_RAM and its scores. -/
theorem maskEvalWritesCandidate : Obligations.MaskEvalWritesCandidate :=
  ⟨by decide, usesOnly_of_rows (by decide) (by decide), fun _ _ =>
    ⟨fun hlo hhi => exec_of_body_writeCandidate (body_maskEval hlo hhi) nofun,
      fun h => failsWith_of_body (if_pos (State.not_gridVersionOk h))⟩⟩

/-- Settles O51: VERSION is checked first; SYM_RAM takes the mask that the selection loop finds, CAND_RAM the last one scored. -/
theorem maskSelectWritesWinner : Obligations.MaskSelectWritesWinner := by
  refine ⟨by decide, usesOnly_of_rows (by decide) (by decide), fun s =>
    ⟨fun hlo hhi => ?_, fun h => failsWith_of_body (if_pos (State.not_gridVersionOk h))⟩⟩
  have hbody := body_maskSelect hlo hhi
  have hw := writes_of_body_ok hbody nofun
  rw [State.setScore_eq] at hbody hw
  refine ⟨_, s.bestMask, exec_of_body_ok hbody, s.bestMask_lowest_first, fun x y hx hy => ?sym, fun x y hx hy => ?cand,
    fun a ha => ?symOutside, fun a ha => ?candOutside, fun a => ?data, fun a => ?frame, by simp, fun b => by simp,
    ⟨fun j => by simp, by simp⟩, hw.succeeded, hw.completeOk_keepsSettings⟩
  all_goals rw [State.completeOk_ramByte, State.setRes0to6_ramByte]
  case cand => exact State.ramByte_writeGrid_inside _ _ _ hx hy
  case candOutside =>
    rw [State.ramByte_writeGrid_outside _ _ _ (by rw [State.candidate_flatten_length]; omega),
      State.ramByte_writeGrid_other _ _ _ (by decide)]
  all_goals rw [State.ramByte_writeGrid_other _ .cand _ (by decide)]
  case sym => exact State.ramByte_writeGrid_inside _ _ _ hx hy
  case symOutside => exact State.ramByte_writeGrid_outside _ _ _ (by rw [State.candidate_flatten_length]; omega)
  case data | frame => exact State.ramByte_writeGrid_other _ _ _ (by decide) a

/-- Settles O52: VERSION is checked first; the writes are one candidate in SYM_RAM and the results. -/
theorem maskForceWritesCandidate : Obligations.MaskForceWritesCandidate :=
  ⟨by decide, usesOnly_of_rows (by decide) (by decide), fun _ _ =>
    ⟨fun hlo hhi => exec_of_body_writeCandidate (body_maskForce hlo hhi) nofun,
      fun h => failsWith_of_body (if_pos (State.not_gridVersionOk h))⟩⟩

/-- Settles O53: RES1 names the selected mask, whose candidate MASK_SELECT has left in SYM_RAM, and a candidate is a function of what
MASK_SELECT keeps; so MASK_FORCE writes the bytes that stand there. -/
theorem forceOfSelectedMaskRebuildsSymbol : Obligations.ForceOfSelectedMaskRebuildsSymbol := by
  intro s t k hlo hhi hexec hres
  have hbody := body_maskSelect hlo hhi
  have ht := Host.Outcome.next.inj (hexec.symm.trans (exec_of_body_ok hbody))
  rw [State.setScore_eq] at ht
  have hk : k = s.bestMask := by
    have hval := congrArg BitVec.toNat hres
    simp only [ht, State.completeOk_res, State.setRes0to6_res, BitVec.toNat_ofNat] at hval
    omega
  have hkeeps : KeepsSettings s t := ht ▸ (writes_of_body_ok hbody nofun).completeOk_keepsSettings
  have hframe : KeepsRam .frame s t := fun a => by
    simp [ht, State.ramByte_writeGrid_other]
  have hsym : ∀ a, t.ramByte .sym a = (s.writeGrid .sym (s.candidate k)).ramByte .sym a := fun a => by
    simp [ht, hk, State.ramByte_writeGrid_other]
  have hforce : body (.maskForce k) t = .ok ((t.writeGrid .sym (s.candidate k)).setRes0to6 0 k.val 0 0 0 0 0) := by
    rw [body_maskForce (hkeeps.version ▸ hlo) (hkeeps.version ▸ hhi), State.candidate_congr hkeeps.version hkeeps.level hframe]
  refine ⟨_, exec_of_body_ok hforce, rfl, fun r a => ?_⟩
  rw [State.completeOk_ramByte, State.setRes0to6_ramByte]
  by_cases hr : r = .sym
  · rw [hr]
    exact State.ramByte_writeGrid_again _ hsym a
  · exact State.ramByte_writeGrid_other _ _ _ hr a
end

section
/-! SUPPORT. The demerits of a grid (45_mask.md R218 to R223): the loop of `runs` inverts the expansion of a run list, each score is the
declarative one over the colours, and the length of a line bounds the scores of its run list. -/

namespace Sys2Proof.Machine

/-! ### Run lists -/

/-- More modules of the colour of the current run. -/
theorem runsFrom_replicate (c : Bool) (n : Int) (k : Nat) (l : List Bool) :
    runsFrom c n (List.replicate k c ++ l) = runsFrom c (n + k) l := by
  induction k generalizing n with
  | zero => simp
  | succ k ih => rw [List.replicate_succ, List.cons_append, runsFrom, if_pos rfl, ih, Nat.cast_succ, Int.add_assoc, Int.add_comm 1]

/-- The loop gives back the maximal runs that a line is the expansion of. -/
theorem runsFrom_expandRuns (c : Bool) (n : Int) (r : List Int) (hr : ∀ m ∈ r, 1 ≤ m) :
    runsFrom c n (expandRuns (!c) r) = n :: r := by
  induction r generalizing c n with
  | nil => rfl
  | cons m r ih =>
    obtain ⟨hm, hr⟩ := List.forall_mem_cons.1 hr
    obtain ⟨k, hk⟩ : ∃ k, m.toNat = k + 1 := ⟨m.toNat - 1, by omega⟩
    rw [expandRuns, hk, List.replicate_succ, List.cons_append, runsFrom, if_neg (by simp), runsFrom_replicate, ih _ _ hr]
    congr 2
    omega

/-- What the loop gives expands to the rest of the line after the current run. -/
theorem expandRuns_runsFrom (c : Bool) {n : Int} (hn : 0 ≤ n) (l : List Bool) :
    expandRuns c (runsFrom c n l) = List.replicate n.toNat c ++ l := by
  induction l generalizing c n with
  | nil => rfl
  | cons b l ih =>
    rw [runsFrom]
    split
    · next h =>
      rw [ih c (by omega), h, Int.toNat_add hn (by decide), List.replicate_add, List.append_assoc]
      rfl
    · next h =>
      obtain rfl := Bool.eq_not.2 h
      rw [expandRuns, ih _ (by decide)]
      rfl

theorem runsFrom_pos (c : Bool) {n : Int} (hn : 1 ≤ n) (l : List Bool) : ∀ m ∈ runsFrom c n l, 1 ≤ m := by
  induction l generalizing c n with
  | nil => simpa [runsFrom] using hn
  | cons b l ih =>
    rw [runsFrom]
    split
    · exact ih c (by omega)
    · exact List.forall_mem_cons.2 ⟨hn, ih b (by decide)⟩

/-- A line that starts dark has the placeholder for its light run (45_mask.md R218). -/
theorem runs_dark (l : List Bool) : runs (true :: l) = -1 :: runsFrom true 1 l := rfl

theorem runListOf_runs {line : List Bool} (h : line ≠ []) : RunListOf line (runs line) := by
  cases line with
  | nil => exact absurd rfl h
  | cons b l =>
    cases b with
    | false => exact ⟨expandRuns_runsFrom false (by decide) l, fun _ => runsFrom_pos false (by decide) l, nofun⟩
    | true => exact ⟨expandRuns_runsFrom true (by decide) l, nofun, fun _ => ⟨_, rfl, runsFrom_pos true (by decide) l⟩⟩

/-- A non-empty list of runs of at least 1 is what the loop makes of its expansion. -/
theorem runsFrom_of_expandRuns {c b : Bool} {r : List Int} {l : List Bool} (h : expandRuns c r = b :: l) (hr : ∀ m ∈ r, 1 ≤ m) :
    runsFrom c 1 l = r := by
  cases r with
  | nil => exact nomatch h
  | cons m r =>
    obtain ⟨hm, hr⟩ := List.forall_mem_cons.1 hr
    obtain ⟨k, hk⟩ : ∃ k, m.toNat = k + 1 := ⟨m.toNat - 1, by omega⟩
    rw [expandRuns, hk, List.replicate_succ, List.cons_append] at h
    rw [← (List.cons.inj h).2, runsFrom_replicate, runsFrom_expandRuns c _ r hr]
    congr 1
    omega

theorem runListOf_iff {line : List Bool} {r : List Int} (h : line ≠ []) : RunListOf line r ↔ r = runs line := by
  refine ⟨fun ⟨hexpand, hlight, hdark⟩ => ?_, fun hr => hr ▸ runListOf_runs h⟩
  cases line with
  | nil => exact absurd rfl h
  | cons b l =>
    cases b with
    | false => exact (runsFrom_of_expandRuns hexpand (hlight rfl)).symm
    | true =>
      obtain ⟨rest, rfl, hrest⟩ := hdark rfl
      rw [runs_dark, runsFrom_of_expandRuns (c := true) hexpand hrest]

/-! ### Scores as counts -/

/-- A sum of equal scores. -/
theorem sum_map_ite_eq_mul_countP {α : Type} (l : List α) (p : α → Bool) (c : Nat) :
    (l.map fun a => if p a = true then c else 0).sum = c * l.countP p := by
  induction l with
  | nil => rfl
  | cons a l ih =>
    rw [List.map_cons, List.sum_cons, ih, List.countP_cons]
    split <;> ring

theorem lineN1_eq (r : List Int) : lineN1 r = runsN1 r := by
  induction r with
  | nil => rfl
  | cons n r ih =>
    rw [lineN1, runsN1] at ih
    simp only [lineN1, runsN1, List.map_cons, List.sum_cons, List.filter_cons, ih, decide_eq_true_eq]
    split
    · rw [List.map_cons, List.sum_cons]
      omega
    · exact Nat.zero_add _

theorem lineN3_eq (r : List Int) : lineN3 r = runsN3 r := by
  rw [runsN3, ← sum_map_ite_eq_mul_countP, lineN3]
  congr 1
  refine List.map_congr_left fun i _ => if_congr ?_ rfl rfl
  have hthird : r.getD i 0 = 3 * (r.getD i 0 / 3) ↔ r.getD i 0 % 3 = 0 := by omega
  simp only [finderAt, finderCentre, hthird, Bool.and_eq_true, Bool.or_eq_true, beq_iff_eq, decide_eq_true_eq]
  tauto

/-! ### The colours of a grid -/

theorem Grid.dark_ofFn {w x y : Nat} (f : Nat → Nat → Byte) (hx : x < w) (hy : y < w) :
    (Grid.ofFn w f).dark x y = (f x y).getLsbD 0 := by
  simp [Grid.dark, Grid.cell, Grid.ofFn, hx, hy]

/-- A score summed over the lines of a grid (45_mask.md section 3). -/
theorem Grid.sum_lines (g : Grid) (w : Nat) (score : List Int → Nat) :
    (((g.lines w).map runs).map score).sum = lineSum w g.dark score := by
  simp [Grid.lines, lineSum, Grid.row, Grid.column, Function.comp_def]

/-- Module (x, y) is the lower right one of a 2×2 block of one colour (45_mask.md R220). -/
def lowerRightOfBlock (dark : Nat → Nat → Bool) (x y : Nat) : Bool :=
  decide (1 ≤ x ∧ 1 ≤ y ∧ dark (x - 1) y = dark x y ∧ dark x (y - 1) = dark x y ∧ dark (x - 1) (y - 1) = dark x y)

theorem lowerRightOfBlock_succ (g : Grid) (x y : Nat) : lowerRightOfBlock g.dark (x + 1) (y + 1) = g.uniformBlock (x + 1) (y + 1) := by
  rw [lowerRightOfBlock, Grid.uniformBlock, Bool.eq_iff_iff]
  simp [and_assoc, eq_comm (a := g.dark (x + 1) (y + 1))]

/-- N2 counts the blocks by their lower right modules, which are never in row or column 0. -/
theorem Grid.n2_eq (g : Grid) (w : Nat) :
    g.n2 w = 3 * ((List.range w).map fun y => (List.range w).countP fun x => lowerRightOfBlock g.dark x y).sum := by
  have hleft : ∀ y, lowerRightOfBlock g.dark 0 y = false := fun y => by simp [lowerRightOfBlock]
  have htop : ∀ x, lowerRightOfBlock g.dark x 0 = false := fun x => by simp [lowerRightOfBlock]
  cases w with
  | zero => rfl
  | succ n =>
    simp [Grid.n2, List.range_succ_eq_map, List.countP_map, Function.comp_def, hleft, htop, lowerRightOfBlock_succ,
      sum_map_ite_eq_mul_countP, List.sum_map_mul_left]

theorem Grid.darkCount_eq (g : Grid) (w : Nat) :
    g.darkCount w = ((List.range w).map fun y => (List.range w).countP fun x => g.dark x y).sum := by
  simp [Grid.darkCount, Grid.row, List.count, List.countP_map, Function.comp_def]

theorem darkPercent_eq (m : N4Rounding) (dark area : Nat) : darkPercent m dark area = percentDark m dark area := by cases m <;> rfl

/-- The distance from 50 as the two truncated differences (45_mask.md R222). -/
theorem demeritN4_eq (m : N4Rounding) (dark area : Nat) :
    demeritN4 m dark area = 10 * (((percentDark m dark area - 50) + (50 - percentDark m dark area)) / 5) := by
  rw [demeritN4, darkPercent_eq]
  congr 2
  omega

/-- The demerits of a grid are those of its own colours. -/
theorem Grid.demerits_scoredAs (m : N4Rounding) (w : Nat) (g : Grid) : ScoredAs m w g.dark (g.demerits m w) where
  n1 := by rw [← g.sum_lines, ← funext lineN1_eq]; rfl
  n2 := g.n2_eq w
  n3 := by rw [← g.sum_lines, ← funext lineN3_eq]; rfl
  darkCount := g.darkCount_eq w
  n4 := demeritN4_eq m _ _

theorem lineSum_congr {w : Nat} {dark dark' : Nat → Nat → Bool} (h : ∀ x < w, ∀ y < w, dark x y = dark' x y)
    (score : List Int → Nat) : lineSum w dark score = lineSum w dark' score := by
  have hline : ∀ {f f' : Nat → Bool}, (∀ i ∈ List.range w, f i = f' i) →
      score (runs ((List.range w).map f)) = score (runs ((List.range w).map f')) := fun heq => by rw [List.map_congr_left heq]
  rw [lineSum, lineSum]
  simp only [List.mem_range] at hline
  congr 2
  · exact List.map_congr_left fun y hy => hline fun x hx => h x hx y (List.mem_range.1 hy)
  · exact List.map_congr_left fun x hx => hline fun y hy => h x (List.mem_range.1 hx) y hy

theorem sum_countP_congr {w : Nat} {p q : Nat → Nat → Bool} (h : ∀ x < w, ∀ y < w, p x y = q x y) :
    ((List.range w).map fun y => (List.range w).countP fun x => p x y).sum =
      ((List.range w).map fun y => (List.range w).countP fun x => q x y).sum := by
  refine congrArg List.sum (List.map_congr_left fun y hy => List.countP_congr fun x hx => ?_)
  rw [h x (List.mem_range.1 hx) y (List.mem_range.1 hy)]

/-- The demerits depend on the colours inside the grid alone. -/
theorem ScoredAs.congr {m : N4Rounding} {w : Nat} {dark dark' : Nat → Nat → Bool} {d : Demerits}
    (h : ∀ x < w, ∀ y < w, dark x y = dark' x y) (hd : ScoredAs m w dark d) : ScoredAs m w dark' d where
  n1 := hd.n1.trans (lineSum_congr h _)
  n2 := by
    refine hd.n2.trans (congrArg (3 * ·) (sum_countP_congr (p := lowerRightOfBlock dark) (q := lowerRightOfBlock dark') ?_))
    intro x hx y hy
    rw [lowerRightOfBlock, lowerRightOfBlock, h x hx y hy, h (x - 1) (by omega) y hy, h x hx (y - 1) (by omega),
      h (x - 1) (by omega) (y - 1) (by omega)]
  n3 := hd.n3.trans (lineSum_congr h _)
  darkCount := hd.darkCount.trans (sum_countP_congr h)
  n4 := hd.n4

theorem Grid.demerits_ofFn_scoredAs (m : N4Rounding) (w : Nat) (f : Nat → Nat → Byte) :
    ScoredAs m w (fun x y => (f x y).getLsbD 0) ((Grid.ofFn w f).demerits m w) :=
  (Grid.demerits_scoredAs m w _).congr fun _ hx _ hy => Grid.dark_ofFn f hx hy

/-! ### Bounds -/

theorem runsFrom_length_le (c : Bool) (n : Int) (l : List Bool) : (runsFrom c n l).length ≤ l.length + 1 := by
  induction l generalizing c n with
  | nil => exact Nat.le_refl _
  | cons b l ih =>
    rw [runsFrom]
    split
    · exact Nat.le_succ_of_le (ih _ _)
    · exact Nat.succ_le_succ (ih _ _)

theorem runs_length_le (line : List Bool) : (runs line).length ≤ line.length + 1 := by
  match line with
  | [] => exact Nat.zero_le _
  | false :: l => exact Nat.le_succ_of_le (runsFrom_length_le _ _ l)
  | true :: l => exact Nat.succ_le_succ (runsFrom_length_le _ _ l)

theorem expandRuns_length (c : Bool) (r : List Int) : (expandRuns c r).length = (r.map Int.toNat).sum := by
  induction r generalizing c with
  | nil => rfl
  | cons n r ih => rw [expandRuns, List.length_append, List.length_replicate, ih, List.map_cons, List.sum_cons]

/-- The runs of a line make up the line. -/
theorem runs_sum (line : List Bool) : ((runs line).map Int.toNat).sum = line.length := by
  cases line with
  | nil => rfl
  | cons b l =>
    obtain ⟨hexpand, -⟩ := runListOf_runs (List.cons_ne_nil b l)
    rw [← expandRuns_length false, hexpand]

theorem runsN1_le_sum (r : List Int) : runsN1 r ≤ (r.map Int.toNat).sum := by
  induction r with
  | nil => exact Nat.le_refl _
  | cons n r ih =>
    rw [runsN1] at ih
    rw [runsN1, List.filter_cons, List.map_cons, List.sum_cons]
    split
    · rw [List.map_cons, List.sum_cons]
      omega
    · omega

theorem runsN1_le (line : List Bool) : runsN1 (runs line) ≤ line.length := runs_sum line ▸ runsN1_le_sum (runs line)

theorem runsN3_le (line : List Bool) : runsN3 (runs line) ≤ 40 * (line.length + 1) := by
  have hcount := List.countP_le_length (p := finderCentre (runs line)) (l := List.range (runs line).length)
  have hlength := runs_length_le line
  rw [List.length_range] at hcount
  rw [runsN3]
  omega

/-- A sum over a range of bounded terms. -/
theorem sum_range_le {f : Nat → Nat} {w b : Nat} (h : ∀ i, f i ≤ b) : ((List.range w).map f).sum ≤ w * b := by
  simpa using List.sum_le_card_nsmul ((List.range w).map f) b (by simpa using fun i _ => h i)

theorem lineSum_le {w b : Nat} {dark : Nat → Nat → Bool} {score : List Int → Nat}
    (h : ∀ line, line.length = w → score (runs line) ≤ b) : lineSum w dark score ≤ 2 * (w * b) := by
  rw [Nat.two_mul]
  exact Nat.add_le_add (sum_range_le fun y => h _ (by simp)) (sum_range_le fun x => h _ (by simp))

theorem sum_countP_le (w : Nat) (p : Nat → Nat → Bool) :
    ((List.range w).map fun y => (List.range w).countP fun x => p x y).sum ≤ w * w :=
  sum_range_le fun _ => List.countP_le_length.trans_eq List.length_range

theorem percentDark_le (m : N4Rounding) {dark area : Nat} (h : dark ≤ area) : percentDark m dark area ≤ 100 := by
  cases m with
  | truncate => exact Nat.div_le_of_le_mul (by omega)
  | round =>
    rcases Nat.eq_zero_or_pos area with rfl | hpos
    · simp [percentDark]
    · exact Nat.le_of_lt_succ (Nat.div_lt_of_lt_mul (by omega))

/-- Every score is bounded by the width, whatever the colours. -/
theorem ScoredAs.total_lt {m : N4Rounding} {w : Nat} {dark : Nat → Nat → Bool} {d : Demerits} (hd : ScoredAs m w dark d)
    (hw : w ≤ 177) : d.total < 2 ^ 32 := by
  have harea : w * w ≤ 177 * 177 := Nat.mul_le_mul hw hw
  have hn1 : d.n1 ≤ 2 * (w * 177) := hd.n1 ▸ lineSum_le fun line hline => (runsN1_le line).trans (hline ▸ hw)
  have hn2 : d.n2 ≤ 3 * (w * w) := hd.n2 ▸ Nat.mul_le_mul_left 3 (sum_countP_le w _)
  have hn3 : d.n3 ≤ 2 * (w * 7120) := hd.n3 ▸ lineSum_le fun line hline => (runsN3_le line).trans (by omega)
  have hpercent := percentDark_le m (hd.darkCount ▸ sum_countP_le w dark : d.dark ≤ w * w)
  have hn4 := hd.n4
  rw [Demerits.total]
  omega

end Sys2Proof.Machine

open Sys2Proof Sys2Proof.Machine

/-- Settles O49: the loop of `runs` and the expansion of a run list are inverse; each demerit is a sum or a count over the colours inside
the grid, bounded by the width. -/
theorem scoresFitInRegisters : Obligations.ScoresFitInRegisters :=
  ⟨fun _ _ hline => runListOf_iff hline, Grid.demerits_ofFn_scoredAs, fun _ _ => Grid.demerits_ofFn_scoredAs _ _ _,
    fun m w g hw => ⟨rfl, (Grid.demerits_scoredAs m w g).total_lt hw⟩⟩
end

section
/-! SUPPORT. How a command fails (60_exceptions.md R250 to R256): ERR = 1 says that the body raised an error, which is of the command's
row, and the checks that raise it read neither STATUS nor the pending latch. -/

namespace Sys2Proof.Machine

/-! ### How a command ends -/

theorem exec_outcome {i : Instr} {s t : State} (h : exec i s = .next t) :
    (∃ u, body i s = .ok u ∧ t = u.completeOk) ∨ (∃ e, body i s = .error e ∧ t = failedState s e) := by
  rw [exec_eq_finish_body] at h
  exact finish_eq_next.1 h

/-- ERR is set by an error alone (10_state.md R26). -/
theorem body_of_exec_err {i : Instr} {s t : State} (h : exec i s = .next t) (herr : t.status.err = true) :
    ∃ e, body i s = .error e ∧ t = failedState s e := by
  rcases exec_outcome h with ⟨u, -, rfl⟩ | hfailed
  · exact nomatch herr
  · exact hfailed

theorem mem_errorsOf_of_body {i : Instr} {s : State} {e : CmdError} (h : body i s = .error e) : e ∈ errorsOf i := by
  by_cases hi : i = .softReset
  · subst hi
    exact nomatch h
  · have hr := body_result hi s
    rw [h] at hr
    cases hr with
    | error he => exact he

/-! ### What the checks of a command read -/

/-- The error that a body raises, if any: what its checks decide, without its writes. -/
def raised : Except CmdError State → Option CmdError
  | .ok _ => none
  | .error e => some e

@[simp] theorem raised_ok (u : State) : raised (.ok u) = none := rfl

@[simp] theorem raised_error (e : CmdError) : raised (.error e) = some e := rfl

@[simp] theorem raised_ite (c : Prop) [Decidable c] (r r' : Except CmdError State) :
    raised (if c then r else r') = if c then raised r else raised r' := apply_ite raised c r r'

theorem raised_eq_some {r : Except CmdError State} {e : CmdError} : raised r = some e ↔ r = .error e := by cases r <;> simp

/-- The lookup of BSB_GET_BIT as a check (41_bitseq.md R107). -/
theorem raised_getBit (b : Buf) (s : State) :
    raised (s.getBit b) = if s.arg0.toNat < (s.bsb b).length then none else some .invalidIndex := by
  split
  · next hlt => rw [State.getBit_some (List.getElem?_eq_getElem hlt), raised_ok]
  · next hge => rw [State.getBit_none (Nat.not_lt.1 hge), raised_error]

/-- The placer's search as a check, the last one of FILL (44_placer.md R195, R197). -/
theorem raised_fill (s : State) :
    raised s.fill = if !s.gridVersionOk then some .invalidInput
      else if !s.dataRangeOk s.arg0.toNat s.arg1.toNat then some .badAddress
      else if s.streamLength ≤ s.freeModules.length then none else some .frameOverflow := by
  unfold State.fill
  dsimp only
  rw [← State.streamLength, s.placeFrom_start]
  split_ifs <;> rfl

/-- Whether a command fails, and with what error, rests on neither STATUS nor the pending latch (60_exceptions.md R256): once the writes
are left out, every check reads the same registers, buffers and bytes. -/
theorem raised_body_withLatch (i : Instr) (s : State) (p : Option Word) (f : Status) :
    raised (body i { s with pending := p, status := f }) = raised (body i s) := by
  cases i with
  | nop | softReset | bsbClear => rfl
  | bsbAppendBit | bsbAppendNum | bsbAppendBytes | bsbAppendSeq =>
    simp only [body, State.appendBytes, State.appendBits, raised_ite, raised_ok, raised_error]
    rfl
  | bsbGetBit b =>
    simp only [body, raised_getBit]
    rfl
  | bsbPack | segSplit | rsBlock | rsInterleave =>
    simp only [body, State.pack, State.segSplit, State.rsBlock, State.rsInterleave, raised_ite, raised_ok, raised_error]
    rfl
  | fill =>
    simp only [body, raised_fill]
    rfl
  | maskEval | maskSelect | maskForce =>
    simp only [body, State.maskEval, State.maskSelect, State.maskForce, raised_ite, raised_ok, raised_error]
    rfl

theorem body_failedState {i : Instr} {s : State} {e : CmdError} (h : body i s = .error e) : body i (failedState s e) = .error e :=
  raised_eq_some.1 ((raised_body_withLatch i s none _).trans (raised_eq_some.2 h))

theorem failedState_failedState (s : State) (e : CmdError) : failedState (failedState s e) e = failedState s e := rfl

end Sys2Proof.Machine

open Sys2Proof Sys2Proof.Machine

/-- Settles O16: completion clears the latch and the outcome, and an error writes STATUS alone. -/
theorem everyCommandCompletes : Obligations.EveryCommandCompletes := by
  intro i s
  obtain ⟨t, h⟩ := exec_answers i s
  refine ⟨t, h, ?_⟩
  rcases exec_outcome h with ⟨u, -, rfl⟩ | ⟨e, -, rfl⟩
  · exact ⟨rfl, rfl, .inl ⟨rfl, rfl⟩⟩
  · exact ⟨rfl, rfl, .inr ⟨e, e.code_ne_zero, rfl⟩⟩

/-- Settles O17: the body raised an error of the row, and the codes of the rows are among those that ERRCODE may hold. -/
theorem commandsRaiseOnlyTheirErrors : Obligations.CommandsRaiseOnlyTheirErrors := by
  intro i s t h herr
  obtain ⟨e, hbody, rfl⟩ := body_of_exec_err h herr
  have he := mem_errorsOf_of_body hbody
  have hcode := errorsOf_code_known i e he
  refine ⟨e, he, rfl, ?_, ?_⟩ <;> rintro rfl <;> exact absurd hcode (by decide)

/-- Settles O18: the checks read nothing that the failure changed, so they raise the same error, and recording it again changes
nothing. -/
theorem failedCommandFailsAgain : Obligations.FailedCommandFailsAgain := by
  intro i s t h herr
  obtain ⟨e, hbody, rfl⟩ := body_of_exec_err h herr
  have hagain := failsWith_of_body (body_failedState hbody)
  rwa [FailsWith, failedState_failedState] at hagain
end

section
/-! SUPPORT. The machine never stops (93_implementation_defined.md section 1, 70_reset_and_hazards.md R295). -/

open Sys2Proof Sys2Proof.Machine

/-- Settles O11: the outside's turn is a next state by definition, and every pending word, legal or not, completes. -/
theorem machineNeverStops : Obligations.MachineNeverStops := by
  intro s
  cases hp : s.pending with
  | none => exact ⟨s.hostStep, step_of_idle hp⟩
  | some c =>
    cases hf : s.hostFirst with
    | true => exact ⟨s.hostStep, step_of_hostFirst (.inr hf)⟩
    | false =>
      obtain ⟨t, ht, -⟩ := runCommand_completes c s
      exact ⟨t, (step_of_pending hp hf).trans ht⟩
end
